-- ==== Sys2Proof/Word.lean ====
section
/-!
DEFINITION. The words of the block: the 32-bit word of the ports and counters, the byte of a byte-wide path, and
the wrapper that marks a word as a binary32 value, so that no integer operation is applied to one by mistake.
-/

namespace Sys2Proof

/-- A 32-bit word: a command word, a data word, a response word, a counter or the noise state (rules R9, R82, R101). -/
abbrev Word := BitVec 32

/-- One byte of a byte-wide transport path (rule R82). -/
abbrev Byte := BitVec 8

/-- One binary32 value, held as its bit pattern (rules R9, R103). -/
structure F32 where
  /-- bit 31 the sign, bits 30..23 the biased exponent, bits 22..0 the fraction (rule R103) -/
  bits : BitVec 32
deriving DecidableEq, Repr, Inhabited

end Sys2Proof
end

