-- ==== Sys2Proof/Syntax.lean ====
section
/-!
DEFINITION. The syntax of the block's commands: voices, parameters, ports and the seven commands, one constructor of
`Instr` per row of spec/opcode_table.json (rules R21, R100, R106).
-/

namespace Sys2Proof

/-- The ten voices, in the identifier order of rule R21 (KICK = 0 .. COWBELL = 9). -/
inductive Voice
  | kick | snare | cymbal | hihat | tom | conga | rimshot | maracas | clap | cowbell
deriving DecidableEq, Repr

/-- The five parameter names, in the identifier order of rule R21 (DECAY = 0 .. OPEN = 4). -/
inductive Param
  | decay | tone | tuning | snappy | opened
deriving DecidableEq, Repr

/-- The two command ports (rule R100): the host drives `control`, the tick source drives `audio`. -/
inductive Port
  | control | audio
deriving DecidableEq, Repr

/-- The nine control registers that SETP addresses (rules R54, R107). -/
inductive Reg
  | kickDecay | kickTone | snareTone | snareSnappy | cymbalDecay | cymbalTone | hihatOpen | tomTuning | congaTuning
deriving DecidableEq, Repr

/-- The seven commands of rule R106.  A command that ignores its data word (rule R104) carries none. -/
inductive Instr
  /-- no operation (rule R311) -/
  | nop
  /-- trigger a voice at a velocity (rule R312) -/
  | trig (voice : Voice) (val : F32)
  /-- write a voice parameter (rule R318) -/
  | setp (voice : Voice) (param : Param) (val : F32)
  /-- write the master volume (rule R316) -/
  | setmv (val : F32)
  /-- read and clear the status word (rule R315) -/
  | status
  /-- read the last mixer output (rule R320) -/
  | mixrd
  /-- run one tick and return its sample (rule R319) -/
  | sample
deriving DecidableEq, Repr

/-- The port that accepts a command (rules R100, R106). -/
def Instr.port : Instr → Port
  | .nop => .control
  | .trig _ _ => .control
  | .setp _ _ _ => .control
  | .setmv _ => .control
  | .status => .control
  | .mixrd => .control
  | .sample => .audio

end Sys2Proof
end

