-- ==== Sys2Proof/Config.lean ====
section
/-!
DEFINITION. What an implementation fixes (rule R7: the named parameters of the block) and the values no rule fixes.
The reference values of the parameters stand in Machine/Reference.lean.  Every operation of the model takes the
parameters as an argument; `exec` and `step` run the reference instance of rule R7 (log entry 1).
-/

namespace Sys2Proof

/-- The parameter `NUMERIC` (rules R7, R14): the arithmetic of every non-integer value. -/
structure Numeric where
  add : F32 → F32 → F32
  sub : F32 → F32 → F32
  mul : F32 → F32 → F32
  div : F32 → F32 → F32
  /-- ordered `<` (rule R14) -/
  lt : F32 → F32 → Bool
  /-- ordered `<=` (rule R14) -/
  le : F32 → F32 → Bool
  /-- `f32(n)` of a signed integer (rule R14); an unsigned word is given as its value -/
  ofInt : Int → F32
  /-- truncation toward zero to int16 (rule R322) -/
  toInt16 : F32 → BitVec 16

/-- A settable parameter's legal range and its reset value (rule R22). -/
structure Range where
  lo : F32
  hi : F32
  dflt : F32
deriving DecidableEq, Repr

/-- The constants of rules R20, R22, R23 and R24 (the parameter `CFG` of rule R7, with the constants of rule R20 that
93_implementation_defined.md items I10 and I11 call parameters: log entry 13). -/
structure Cfg where
  -- rule R20
  freqMin : F32
  /-- the factor of `FREQ_MAX = 0.45 * FS_F` -/
  freqMaxRatio : F32
  filtMin : F32
  qMin : F32
  qMax : F32
  timeMinMs : F32
  attMs : F32
  pinkA : F32
  pinkB : F32
  btFm : F32
  masterDef : F32
  -- rule R22
  kickDecay : Range
  kickTone : Range
  snareTone : Range
  snareSnappy : Range
  cymbalDecay : Range
  cymbalTone : Range
  /-- the HiHat's OPEN register after reset -/
  hhOpenDef : Bool
  /-- a written value at or above this selects open (rule R236, decision D41) -/
  hhOpenAt : F32
  tomTuning : Range
  congaTuning : Range
  -- rule R23
  kickBase : F32
  kickSubFreq : F32
  kickSubW : F32
  kickPitchDepth : F32
  kickPitchDecay : F32
  kickLpMin : F32
  kickLpMax : F32
  kickGain : F32
  kickSat : F32
  snareF1 : F32
  snareDetune : F32
  snareTonalDecay : F32
  snareHpFc : F32
  snapMin : F32
  snapMax : F32
  snareGain : F32
  snareSat : F32
  cymF0 : F32
  cymF1 : F32
  cymF2 : F32
  cymF3 : F32
  cymF4 : F32
  cymF5 : F32
  cymW1 : F32
  cymW2 : F32
  cymBp1Min : F32
  cymBp1Span : F32
  cymBp2Min : F32
  cymBp2Span : F32
  cymQ : F32
  cymHpFc : F32
  cymGain : F32
  cymSat : F32
  hhOscAmp : F32
  hhBpFc : F32
  hhQ : F32
  hhHpFc : F32
  hhClosedMs : F32
  hhOpenMs : F32
  hhGain : F32
  hhSat : F32
  -- rule R24
  tomBtDecay : F32
  tomToneDecay : F32
  tomNoiseDecay : F32
  tomLpFc : F32
  tomNoiseW : F32
  tomBend : F32
  tomGain : F32
  tomSat : F32
  congaBtDecay : F32
  congaToneDecay : F32
  congaNoiseDecay : F32
  congaLpFc : F32
  congaNoiseW : F32
  congaGain : F32
  congaSat : F32
  rimF1 : F32
  rimF2 : F32
  rimMix : F32
  rimHpFc : F32
  rimDecay : F32
  rimGain : F32
  rimSat : F32
  marHpFc : F32
  marDecay : F32
  marGain : F32
  marSat : F32
  clapBpFc : F32
  clapQ : F32
  clapSawDecay : F32
  clapSpacingMs : F32
  /-- the number of bursts of one clap, the trigger's own among them -/
  clapBursts : Nat
  clapRevDecay : F32
  clapGain : F32
  clapSat : F32
  cowF1 : F32
  cowF2 : F32
  cowW1 : F32
  cowW2 : F32
  cowBpFc : F32
  cowQ : F32
  cowHpFc : F32
  cowDecay : F32
  cowGain : F32
  cowSat : F32
  /-- the amplitude of every oscillator this table does not name ("every oscillator amplitude is 1.0 unless ...") -/
  oscAmp : F32
  /-- the sustain level of every voice envelope -/
  sustain : F32
  /-- the configured frequency of the noise oscillators, which no rule gives (log entry 5) -/
  noiseOscFreq : F32
deriving DecidableEq, Repr

/-- The named parameters of rule R7.  They are parameters of the step relation, not state (rule R31). -/
structure Params where
  /-- `NUMERIC` -/
  num : Numeric
  /-- `FTZ`: subnormal results are flushed to zero -/
  ftz : Bool
  /-- `SIN` -/
  sin : F32 → F32
  /-- `COS` -/
  cos : F32 → F32
  /-- `TANH` -/
  tanh : F32 → F32
  /-- `FS` as binary32 (`FS_F` of rule R13) -/
  fs : F32
  /-- `FRT[v]`: TRIG zeroes the voice's filter and pink-noise memory -/
  frt : Voice → Bool
  /-- `NOISE_SEED` -/
  noiseSeed : Word
  /-- `CFG` -/
  cfg : Cfg

namespace Config

/-- The operation whose result is a NaN (which NaN, no rule says). -/
inductive NanSource
  | add | sub | mul | div | sin | cos | tanh
deriving DecidableEq, Repr

/-- FREE VALUE (log entry 3): the sign and payload of a NaN result.  IEEE 754 fixes only that the result is a quiet
NaN; rule R317 says that no NaN enters the state of a machine that ran from reset. -/
opaque nanBits : NanSource → F32 → F32 → BitVec 32

/-- FREE VALUE (log entry 4): what the int16 conversion of rule R322 gives for a value outside int16 or a NaN, which
no rule states (rule R322 says the argument is clamped before it). -/
opaque toInt16Open : F32 → BitVec 16

end Config

end Sys2Proof
end

