-- ==== Sys2Proof/Machine/Float.lean ====
section
/-!
DEFINITION. Binary32 arithmetic, round to nearest, ties to even (rules R13, R14): the reference instance of the
parameter `NUMERIC`.  A finite value is exactly `key x` units of 2^-149; each operation computes the exact result and
rounds it once.
-/

namespace Sys2Proof.F32

/-- Bit 31. -/
def sign (x : F32) : Bool := x.bits.msb

/-- Bits 30..23 (rule R103). -/
def expo (x : F32) : Nat := x.bits.toNat / 2 ^ 23 % 2 ^ 8

/-- Bits 22..0 (rule R103). -/
def frac (x : F32) : Nat := x.bits.toNat % 2 ^ 23

/-- Bits 30..0: the pattern without its sign. -/
def magBits (x : F32) : Nat := x.bits.toNat % 2 ^ 31

/-- The exponent field is not 0xFF (rule R317). -/
def isFinite (x : F32) : Bool := x.expo != 255

def isNaN (x : F32) : Bool := x.expo == 255 && x.frac != 0

def isInf (x : F32) : Bool := x.expo == 255 && x.frac == 0

/-- A value below the smallest normal one that is not zero. -/
def isSubnormal (x : F32) : Bool := x.expo == 0 && x.frac != 0

/-- The magnitude in units of 2^-149 (for an infinity, the value one step above the largest finite one). -/
def mag (x : F32) : Nat :=
  if x.expo = 0 then x.frac else (2 ^ 23 + x.frac) * 2 ^ (x.expo - 1)

/-- The value in units of 2^-149. -/
def key (x : F32) : Int := if x.sign then -(x.mag : Int) else (x.mag : Int)

/-- The value with sign `neg` and pattern `b` below the sign bit. -/
def ofMagBits (neg : Bool) (b : Nat) : F32 := ⟨BitVec.ofNat 32 (if neg then 2 ^ 31 + b else b)⟩

def zero : F32 := ⟨0x00000000#32⟩

def one : F32 := ⟨0x3F800000#32⟩

/-- `-1.0`. -/
def negOne : F32 := ⟨0xBF800000#32⟩

/-- The zero with the given sign. -/
def zeroOf (neg : Bool) : F32 := ofMagBits neg 0

/-- The infinity with the given sign. -/
def infOf (neg : Bool) : F32 := ofMagBits neg 0x7F800000

/-- A quiet NaN whose sign and payload are free (log entry 3). -/
def nanOf (s : Config.NanSource) (x y : F32) : F32 :=
  ⟨(Config.nanBits s x y &&& 0x803FFFFF#32) ||| 0x7FC00000#32⟩

/-- `num / den` rounded to an integer, nearest, ties to even. -/
def divRne (num den : Nat) : Nat :=
  let m := num / den
  let r := num % den
  if den < 2 * r ∨ (2 * r = den ∧ m % 2 = 1) then m + 1 else m

/-- The exponent step at which a magnitude of `n` units is rounded: 0 up to the first binade of normal values. -/
def ulpShift (n : Nat) : Nat := Nat.log2 n - 23

/-- The pattern (sign bit excluded) of the binary32 value nearest to `num / den` units of 2^-149, ties to even; a
result beyond the largest finite value is the infinity (rule R14, IEEE 754). -/
def roundMag (num den : Nat) : Nat :=
  let k := ulpShift (num / den)
  min (k * 2 ^ 23 + divRne num (den * 2 ^ k)) 0x7F800000

/-- A magnitude `num / den` in units of 2^-149, rounded, with its sign. -/
def round (neg : Bool) (num den : Nat) : F32 := ofMagBits neg (roundMag num den)

/-- An integer number of units of 2^-149, rounded; an exact zero is `+0.0`. -/
def roundInt (z : Int) : F32 := round (decide (z < 0)) z.natAbs 1

/-- `-x`: the sign bit inverted. -/
def neg (x : F32) : F32 := ⟨x.bits ^^^ 0x80000000#32⟩

/-- Addition of two values neither of which is a NaN. -/
def addNum (s : Config.NanSource) (x y : F32) : F32 :=
  if x.isInf then
    if y.isInf && (x.sign != y.sign) then nanOf s x y else x
  else if y.isInf then y
  else if x.mag = 0 ∧ y.mag = 0 then zeroOf (x.sign && y.sign)
  else roundInt (x.key + y.key)

def add (x y : F32) : F32 :=
  if x.isNaN || y.isNaN then nanOf .add x y else addNum .add x y

def sub (x y : F32) : F32 :=
  if x.isNaN || y.isNaN then nanOf .sub x y else addNum .sub x y.neg

def mul (x y : F32) : F32 :=
  let n := x.sign != y.sign
  if x.isNaN || y.isNaN then nanOf .mul x y
  else if (x.isInf && y.mag == 0) || (y.isInf && x.mag == 0) then nanOf .mul x y
  else if x.isInf || y.isInf then infOf n
  else round n (x.mag * y.mag) (2 ^ 149)

def div (x y : F32) : F32 :=
  let n := x.sign != y.sign
  if x.isNaN || y.isNaN then nanOf .div x y
  else if (x.isInf && y.isInf) || (x.mag == 0 && y.mag == 0) then nanOf .div x y
  else if x.isInf || y.mag == 0 then infOf n
  else if y.isInf then zeroOf n
  else round n (x.mag * 2 ^ 149) y.mag

/-- Ordered `<`: false where an operand is a NaN (rule R14). -/
def lt (x y : F32) : Bool := !x.isNaN && !y.isNaN && decide (x.key < y.key)

/-- Ordered `<=`: false where an operand is a NaN (rule R14). -/
def le (x y : F32) : Bool := !x.isNaN && !y.isNaN && decide (x.key ≤ y.key)

/-- `f32(n)` (rule R14). -/
def ofInt (n : Int) : F32 := round (decide (n < 0)) (n.natAbs * 2 ^ 149) 1

/-- The decimal literal `n / 10^k` (rule R13). -/
def lit (n k : Nat) : F32 := round false (n * 2 ^ 149) (10 ^ k)

/-- The whole part of a finite value, toward zero. -/
def truncInt (x : F32) : Int :=
  if x.sign then -((x.mag / 2 ^ 149 : Nat) : Int) else ((x.mag / 2 ^ 149 : Nat) : Int)

/-- The C conversion to int16 (rule R322): toward zero; free outside int16 (log entry 4). -/
def toInt16 (x : F32) : BitVec 16 :=
  if x.isFinite ∧ -32768 ≤ x.truncInt ∧ x.truncInt ≤ 32767 then BitVec.ofInt 16 x.truncInt
  else Config.toInt16Open x

/-- A subnormal value becomes the zero of its sign (the parameter `FTZ` of rule R7). -/
def flush (x : F32) : F32 := if x.isSubnormal then zeroOf x.sign else x

/-- `PI_F` (rule R13). -/
def pi : F32 := ⟨0x40490FDB#32⟩

/-- `TWO_PI_F` (rule R13). -/
def twoPi : F32 := ⟨0x40C90FDB#32⟩

/-- `THRESH` (rule R13). -/
def thresh : F32 := ⟨0x3A83126F#32⟩

end Sys2Proof.F32

namespace Sys2Proof

/-- The reference instance of `NUMERIC` (rules R7, R14). -/
def ieeeBinary32 : Numeric where
  add := F32.add
  sub := F32.sub
  mul := F32.mul
  div := F32.div
  lt := F32.lt
  le := F32.le
  ofInt := F32.ofInt
  toInt16 := F32.toInt16

/-- A result as the parameter `FTZ` leaves it (rule R7, log entry 12). -/
def Params.result (P : Params) (x : F32) : F32 := if P.ftz then x.flush else x

/-- `a + b` (rule R14). -/
def Params.add (P : Params) (a b : F32) : F32 := P.result (P.num.add a b)

/-- `a - b` (rule R14). -/
def Params.sub (P : Params) (a b : F32) : F32 := P.result (P.num.sub a b)

/-- `a * b` (rule R14). -/
def Params.mul (P : Params) (a b : F32) : F32 := P.result (P.num.mul a b)

/-- `a / b` (rule R14). -/
def Params.div (P : Params) (a b : F32) : F32 := P.result (P.num.div a b)

/-- `a < b` (rule R14); `a > b` is `b < a`. -/
def Params.lt (P : Params) (a b : F32) : Bool := P.num.lt a b

/-- `a <= b` (rule R14); `a >= b` is `b <= a`. -/
def Params.le (P : Params) (a b : F32) : Bool := P.num.le a b

/-- `f32(n)` of an unsigned word (rule R14). -/
def Params.ofWord (P : Params) (n : Word) : F32 := P.num.ofInt n.toNat

/-- `f32(n)` of a signed integer (rule R14). -/
def Params.ofInt (P : Params) (n : Int) : F32 := P.num.ofInt n

/-- `max(a, b)` is `b` if `a < b` else `a` (rule R14). -/
def Params.max (P : Params) (a b : F32) : F32 := if P.lt a b then b else a

/-- `min(a, b)` is `b` if `b < a` else `a` (rule R14). -/
def Params.min (P : Params) (a b : F32) : F32 := if P.lt b a then b else a

/-- `clamp(x, lo, hi) = min(max(x, lo), hi)` (rule R14). -/
def Params.clamp (P : Params) (x lo hi : F32) : F32 := P.min (P.max x lo) hi

/-- `TS_MS`: 1000 / FS_F rounded (rule R13). -/
def Params.tsMs (P : Params) : F32 := P.div (F32.lit 1000 0) P.fs

/-- `FREQ_MAX` (rule R20). -/
def Params.freqMax (P : Params) : F32 := P.mul P.cfg.freqMaxRatio P.fs

end Sys2Proof
end

