-- ==== Sys2Proof/Machine/Operands.lean ====
section
/-!
DEFINITION. The operand forms of the commands: voice and parameter identifiers, the control register that a pair names,
and the finite check of a data word (rules R21, R54, R103, R107, R317).
-/

namespace Sys2Proof

/-- The voices in identifier order (rule R21). -/
def Voice.all : List Voice :=
  [.kick, .snare, .cymbal, .hihat, .tom, .conga, .rimshot, .maracas, .clap, .cowbell]

/-- A voice's identifier (rule R21). -/
def Voice.code : Voice → BitVec 4
  | .kick => 0
  | .snare => 1
  | .cymbal => 2
  | .hihat => 3
  | .tom => 4
  | .conga => 5
  | .rimshot => 6
  | .maracas => 7
  | .clap => 8
  | .cowbell => 9

/-- The voice of an identifier; 10 to 15 name none (rules R102, R108). -/
def Voice.ofCode (c : BitVec 4) : Option Voice := Voice.all.find? (fun v => v.code == c)

/-- The parameters in identifier order (rule R21). -/
def Param.all : List Param := [.decay, .tone, .tuning, .snappy, .opened]

/-- A parameter's identifier (rule R21). -/
def Param.code : Param → BitVec 4
  | .decay => 0
  | .tone => 1
  | .tuning => 2
  | .snappy => 3
  | .opened => 4

/-- The parameter of an identifier; 5 to 15 name none. -/
def Param.ofCode (c : BitVec 4) : Option Param := Param.all.find? (fun p => p.code == c)

/-- The control register at (VOICE, PARAM); the other pairs name none (rules R54, R107, R300). -/
def regOf : Voice → Param → Option Reg
  | .kick, .decay => some .kickDecay
  | .kick, .tone => some .kickTone
  | .snare, .tone => some .snareTone
  | .snare, .snappy => some .snareSnappy
  | .cymbal, .decay => some .cymbalDecay
  | .cymbal, .tone => some .cymbalTone
  | .hihat, .opened => some .hihatOpen
  | .tom, .tuning => some .tomTuning
  | .conga, .tuning => some .congaTuning
  | _, _ => none

end Sys2Proof
end

