-- ==== Sys2Proof/Machine/Trig.lean ====
section
/-!
DEFINITION. The reference functions `SIN`, `COS` and `TANH` of rule R15 (decision D2: the correctly rounded sine,
cosine and hyperbolic tangent).  Each evaluates its power series in fixed point with 256 fraction bits and rounds the
sum once to binary32.  That this is the correctly rounded function for every argument is not proved (log entry 2).
-/

namespace Sys2Proof.Trig

/-- `1.0` in fixed point: 2^256. -/
def unit : Nat := 2 ^ 256

/-- pi / 2 in fixed point: the whole part of pi / 2 * 2^256. -/
def halfPi : Nat := 0x1921fb54442d18469898cc51701b839a252049c1114cf98e804177d4c76273644

/-- The magnitude of a binary32 value in fixed point, exactly (2^-149 is 2^107 units). -/
def fixed (x : F32) : Nat := x.mag * 2 ^ 107

/-- `t - t x^2/((i+1)(i+2)) + ...`, `n` terms: the alternating tail of a sine or cosine series, `sq` being `x^2` and
`t` the term of degree `i`. -/
def alternating (sq : Nat) : Nat → Nat → Nat → Int
  | 0, _, _ => 0
  | n + 1, i, t => (t : Int) - alternating sq n (i + 2) (t * sq / unit / ((i + 1) * (i + 2)))

/-- The same series with every sign positive: the tail of a hyperbolic sine or cosine series. -/
def positive (sq : Nat) : Nat → Nat → Nat → Nat
  | 0, _, _ => 0
  | n + 1, i, t => t + positive sq n (i + 2) (t * sq / unit / ((i + 1) * (i + 2)))

/-- sin r and cos r in fixed point, for `r` in [0, pi/2]. -/
def sinFixed (r : Nat) : Int := alternating (r * r / unit) 40 1 r

def cosFixed (r : Nat) : Int := alternating (r * r / unit) 40 0 unit

/-- The sine of an angle that lies `r` beyond `q` right angles. -/
def sinQuadrant (q r : Nat) : Int :=
  match q % 4 with
  | 0 => sinFixed r
  | 1 => cosFixed r
  | 2 => -sinFixed r
  | _ => -cosFixed r

/-- A fixed-point value rounded to binary32; `neg` inverts its sign. -/
def toF32 (neg : Bool) (z : Int) : F32 := F32.round (neg != decide (z < 0)) z.natAbs (2 ^ 107)

/-- `SIN` (rule R15). -/
def sin (x : F32) : F32 :=
  if x.isFinite then toF32 x.sign (sinQuadrant (fixed x / halfPi) (fixed x % halfPi)) else F32.nanOf .sin x x

/-- `COS` (rule R15): the cosine is the sine one right angle further on. -/
def cos (x : F32) : F32 :=
  if x.isFinite then toF32 false (sinQuadrant (fixed x / halfPi + 1) (fixed x % halfPi)) else F32.nanOf .cos x x

/-- `TANH` (rule R15): sinh x / cosh x, its magnitude never above 1.0, and 1.0 with the sign of x from |x| = 16 on. -/
def tanh (x : F32) : F32 :=
  if x.isNaN then F32.nanOf .tanh x x
  else if 16 * unit ≤ fixed x then F32.ofMagBits x.sign 0x3F800000
  else
    let sq := fixed x * fixed x / unit
    F32.ofMagBits x.sign (min 0x3F800000 (F32.roundMag (positive sq 100 1 (fixed x) * 2 ^ 149) (positive sq 100 0 unit)))

end Sys2Proof.Trig
end

