-- ==== Sys2Proof/Machine/Reference.lean ====
section
/-!
DEFINITION. The reference values of the block's parameters (rules R7, R20, R22, R23, R24).
-/

namespace Sys2Proof

/-- The reference `CFG`: the literals of rules R20, R22, R23 and R24, each the nearest binary32 value (rule R13). -/
def referenceCfg : Cfg where
  -- rule R20
  freqMin := F32.lit 1 0
  freqMaxRatio := F32.lit 45 2
  filtMin := F32.lit 20 0
  qMin := F32.lit 5 1
  qMax := F32.lit 20 0
  timeMinMs := F32.lit 1 1
  attMs := F32.lit 1 0
  pinkA := F32.lit 98 2
  pinkB := F32.lit 2 2
  btFm := F32.lit 1 1
  masterDef := F32.lit 8 1
  -- rule R22
  kickDecay := ⟨F32.lit 300 0, F32.lit 1200 0, F32.lit 500 0⟩
  kickTone := ⟨F32.lit 0 0, F32.lit 1 0, F32.lit 5 1⟩
  snareTone := ⟨F32.lit 0 0, F32.lit 1 0, F32.lit 7 1⟩
  snareSnappy := ⟨F32.lit 0 0, F32.lit 1 0, F32.lit 8 1⟩
  cymbalDecay := ⟨F32.lit 500 0, F32.lit 2000 0, F32.lit 800 0⟩
  cymbalTone := ⟨F32.lit 0 0, F32.lit 1 0, F32.lit 5 1⟩
  hhOpenDef := false
  hhOpenAt := F32.lit 5 1
  tomTuning := ⟨F32.lit 120 0, F32.lit 200 0, F32.lit 165 0⟩
  congaTuning := ⟨F32.lit 250 0, F32.lit 400 0, F32.lit 370 0⟩
  -- rule R23
  kickBase := F32.lit 50 0
  kickSubFreq := F32.lit 50 0
  kickSubW := F32.lit 3 1
  kickPitchDepth := F32.lit 2 0
  kickPitchDecay := F32.lit 30 0
  kickLpMin := F32.lit 100 0
  kickLpMax := F32.lit 1000 0
  kickGain := F32.lit 1 0
  kickSat := F32.lit 1 0
  snareF1 := F32.lit 180 0
  snareDetune := F32.lit 20 0
  snareTonalDecay := F32.lit 150 0
  snareHpFc := F32.lit 2000 0
  snapMin := F32.lit 50 0
  snapMax := F32.lit 300 0
  snareGain := F32.lit 1 0
  snareSat := F32.lit 1 0
  cymF0 := F32.lit 800 0
  cymF1 := F32.lit 540 0
  cymF2 := F32.lit 5227 1
  cymF3 := F32.lit 3696 1
  cymF4 := F32.lit 3044 1
  cymF5 := F32.lit 2053 1
  cymW1 := F32.lit 7 1
  cymW2 := F32.lit 3 1
  cymBp1Min := F32.lit 3000 0
  cymBp1Span := F32.lit 2000 0
  cymBp2Min := F32.lit 7000 0
  cymBp2Span := F32.lit 3000 0
  cymQ := F32.lit 1 0
  cymHpFc := F32.lit 5000 0
  cymGain := F32.lit 1 0
  cymSat := F32.lit 0 0
  hhOscAmp := F32.lit 5 1
  hhBpFc := F32.lit 8000 0
  hhQ := F32.lit 1 0
  hhHpFc := F32.lit 7000 0
  hhClosedMs := F32.lit 50 0
  hhOpenMs := F32.lit 400 0
  hhGain := F32.lit 1 0
  hhSat := F32.lit 0 0
  -- rule R24
  tomBtDecay := F32.lit 200 0
  tomToneDecay := F32.lit 200 0
  tomNoiseDecay := F32.lit 100 0
  tomLpFc := F32.lit 1000 0
  tomNoiseW := F32.lit 3 1
  tomBend := F32.lit 95 2
  tomGain := F32.lit 1 0
  tomSat := F32.lit 1 0
  congaBtDecay := F32.lit 150 0
  congaToneDecay := F32.lit 150 0
  congaNoiseDecay := F32.lit 50 0
  congaLpFc := F32.lit 2000 0
  congaNoiseW := F32.lit 3 1
  congaGain := F32.lit 1 0
  congaSat := F32.lit 1 0
  rimF1 := F32.lit 1667 0
  rimF2 := F32.lit 455 0
  rimMix := F32.lit 5 1
  rimHpFc := F32.lit 1000 0
  rimDecay := F32.lit 10 0
  rimGain := F32.lit 1 0
  rimSat := F32.lit 0 0
  marHpFc := F32.lit 5000 0
  marDecay := F32.lit 30 0
  marGain := F32.lit 1 0
  marSat := F32.lit 0 0
  clapBpFc := F32.lit 1000 0
  clapQ := F32.lit 2 0
  clapSawDecay := F32.lit 10 0
  clapSpacingMs := F32.lit 15 0
  clapBursts := 3
  clapRevDecay := F32.lit 150 0
  clapGain := F32.lit 1 0
  clapSat := F32.lit 0 0
  cowF1 := F32.lit 800 0
  cowF2 := F32.lit 540 0
  cowW1 := F32.lit 6 1
  cowW2 := F32.lit 4 1
  cowBpFc := F32.lit 800 0
  cowQ := F32.lit 3 0
  cowHpFc := F32.lit 500 0
  cowDecay := F32.lit 100 0
  cowGain := F32.lit 1 0
  cowSat := F32.lit 0 0
  oscAmp := F32.lit 1 0
  sustain := F32.lit 0 0
  -- no rule gives it (log entry 5)
  noiseOscFreq := F32.lit 0 0

/-- The reference values of the parameters of rule R7; the model's `exec` and `step` run them (log entry 1). -/
def reference : Params where
  num := ieeeBinary32
  ftz := false
  sin := Trig.sin
  cos := Trig.cos
  tanh := Trig.tanh
  fs := F32.lit 32768 0
  frt := fun _ => true
  noiseSeed := 2463534242#32
  cfg := referenceCfg

/-- What rule R7 asks of the parameters: `10000 <= FS <= 48000`, and a noise seed that is not zero. -/
abbrev Params.legal (P : Params) : Prop :=
  (F32.le (F32.lit 10000 0) P.fs = true ∧ F32.le P.fs (F32.lit 48000 0) = true) ∧ P.noiseSeed ≠ 0

/-- A legal choice of the parameters (rules R7, R31, R384), made before RESET and constant from then on. -/
structure Instance where
  params : Params
  legal : params.legal

/-- The reference values are a legal choice (rule R7). -/
def referenceInstance : Instance := ⟨reference, by decide +kernel⟩

end Sys2Proof
end

