-- ==== Sys2Proof/Machine/Records.lean ====
section
/-!
DEFINITION. The records the block's state is made of (rules R33 to R52), and the shape of a voice template.
-/

namespace Sys2Proof

/-- Oscillator record `OSC` (rule R33). -/
structure Osc where
  /-- frequency in Hz -/
  freq : F32
  /-- phase increment per sample, derived from `freq` -/
  inc : F32
  /-- phase in radians -/
  phase : F32
  /-- output gain -/
  amp : F32
  /-- previous pink-noise output, unscaled -/
  pink : F32
deriving DecidableEq, Repr

/-- The six oscillators `osc[0..5]` of the Cymbal and of the HiHat (rules R43, R44). -/
structure Bank where
  osc0 : Osc
  osc1 : Osc
  osc2 : Osc
  osc3 : Osc
  osc4 : Osc
  osc5 : Osc
deriving DecidableEq, Repr

/-- Bridged-T record `BT` (rule R35). -/
structure Bt where
  freq : F32
  decayMs : F32
  /-- `1000 / (decayMs * FS_F)` -/
  decayRate : F32
  phase : F32
  /-- ringing amplitude -/
  amp : F32
  /-- 1 while the oscillator rings -/
  active : Bool
deriving DecidableEq, Repr

/-- Inharmonic record `INH` (rule R36). -/
structure Inh where
  o1 : Osc
  o2 : Osc
  mix : F32
deriving DecidableEq, Repr

/-- Envelope record `ENV` (rule R37): the fields `A`, `D`, `R`, `S`, `age` and `isActive`. -/
structure Env where
  /-- `A`: attack time, ms -/
  attackMs : F32
  /-- `D`: decay time, ms -/
  decayMs : F32
  /-- `R`: release time, ms; stored, never read (rule R167) -/
  releaseMs : F32
  /-- `S`: sustain level -/
  sustain : F32
  /-- ticks advanced since the last trigger, saturating -/
  age : Word
  isActive : Bool
deriving DecidableEq, Repr

/-- Filter record `FLT` (rule R38).  The mode of each instance is fixed by its voice's graph (rule R31). -/
structure Flt where
  cutoff : F32
  q : F32
  alpha : F32
  beta : F32
  gamma : F32
  delta : F32
  x1 : F32
  x2 : F32
  y1 : F32
  y2 : F32
deriving DecidableEq, Repr

/-- Processor record `PROC` (rule R39). -/
structure Proc where
  gain : F32
  sat : F32
deriving DecidableEq, Repr

/-- `V[KICK]` (rules R40, R41). -/
structure Kick where
  isPlaying : Bool
  vel : F32
  bt : Bt
  sub : Osc
  ampEnv : Env
  pitchEnv : Env
  lp : Flt
  proc : Proc
  decay : F32
  tone : F32
deriving DecidableEq, Repr

/-- `V[SNARE]` (rules R40, R42). -/
structure Snare where
  isPlaying : Bool
  vel : F32
  bt1 : Bt
  bt2 : Bt
  toneEnv : Env
  noise : Osc
  hp : Flt
  snapEnv : Env
  proc : Proc
  tone : F32
  snappy : F32
deriving DecidableEq, Repr

/-- `V[CYMBAL]` (rules R40, R43). -/
structure Cymbal where
  isPlaying : Bool
  vel : F32
  osc : Bank
  bp1 : Flt
  bp2 : Flt
  hp : Flt
  env : Env
  proc : Proc
  decay : F32
  tone : F32
deriving DecidableEq, Repr

/-- `V[HIHAT]` (rules R40, R44). -/
structure Hihat where
  isPlaying : Bool
  vel : F32
  osc : Bank
  bp : Flt
  hp : Flt
  env : Env
  proc : Proc
  /-- the OPEN register: 0 is closed -/
  opened : Bool
deriving DecidableEq, Repr

/-- `V[TOM]` and `V[CONGA]` (rules R40, R45, R46): one record shape, two voices. -/
structure Drum where
  isPlaying : Bool
  vel : F32
  bt : Bt
  toneEnv : Env
  pinkOsc : Osc
  lp : Flt
  noiseEnv : Env
  proc : Proc
  tuning : F32
deriving DecidableEq, Repr

/-- `V[RIMSHOT]` (rules R40, R47). -/
structure Rimshot where
  isPlaying : Bool
  vel : F32
  inh : Inh
  hp : Flt
  env : Env
  proc : Proc
deriving DecidableEq, Repr

/-- `V[MARACAS]` (rules R40, R48). -/
structure Maracas where
  isPlaying : Bool
  vel : F32
  noise : Osc
  hp : Flt
  env : Env
  proc : Proc
deriving DecidableEq, Repr

/-- `V[CLAP]` (rules R40, R49). -/
structure Clap where
  isPlaying : Bool
  vel : F32
  noise : Osc
  bp : Flt
  sawEnv : Env
  revEnv : Env
  proc : Proc
  /-- bursts still to come, 0..2 -/
  burstsLeft : Nat
  /-- ticks since the last burst, saturating -/
  burstAge : Word
deriving DecidableEq, Repr

/-- `V[COWBELL]` (rules R40, R50). -/
structure Cowbell where
  isPlaying : Bool
  vel : F32
  o1 : Osc
  o2 : Osc
  bp : Flt
  hp : Flt
  env : Env
  proc : Proc
deriving DecidableEq, Repr

/-- The ten voice records `V[0..9]` (rules R8, R30). -/
structure Voices where
  kick : Kick
  snare : Snare
  cymbal : Cymbal
  hihat : Hihat
  tom : Drum
  conga : Drum
  rimshot : Rimshot
  maracas : Maracas
  clap : Clap
  cowbell : Cowbell
deriving DecidableEq, Repr

/-- The mixer record `M` (rule R51) with the noise generator word `M.rng` (rule R52). -/
structure Mixer where
  master : F32
  /-- the clipped mixer output of the last tick -/
  mix : F32
  /-- sticky rejected-command flag -/
  cmdErr : Bool
  rng : Word
deriving DecidableEq, Repr

/-- What one run of a voice's graph or process leaves: its output, the noise word and the voice record. -/
structure Run (V : Type) where
  out : F32
  rng : Word
  voice : V
deriving DecidableEq, Repr

/-- A voice template: what rules R210, R211 and R312 ask of a voice record `V`.  Each `map` applies a function to
every component of one kind, in the order in which the record's rule lists them. -/
structure Template (V : Type) where
  /-- the voice's identifier -/
  id : Voice
  isPlaying : V → Bool
  setPlaying : Bool → V → V
  vel : V → F32
  setVel : F32 → V → V
  proc : V → Proc
  mapEnvs : (Env → Env) → V → V
  mapOscs : (Osc → Osc) → V → V
  mapBts : (Bt → Bt) → V → V
  mapFlts : (Flt → Flt) → V → V
  /-- the controlling envelopes (rules R41 to R50) -/
  controlling : V → List Env
  /-- a further condition that keeps the voice Sounding (rule R211: the Clap's bursts) -/
  waits : V → Bool
  /-- `GRAPH_v` -/
  graph : Params → Word → V → Run V
  /-- the voice-specific step of TRIG (rule R312) -/
  onTrigger : Params → V → V

/-- The same function on each oscillator of a bank. -/
def Bank.map (f : Osc → Osc) (b : Bank) : Bank := ⟨f b.osc0, f b.osc1, f b.osc2, f b.osc3, f b.osc4, f b.osc5⟩

end Sys2Proof
end

