-- ==== Sys2Proof/Machine/Oscillators.lean ====
section
/-!
DEFINITION. Oscillators, the noise generator, the bridged-T and the inharmonic oscillator (rules R130 to R145).
-/

namespace Sys2Proof

/-- A frequency clamped to [FREQ_MIN, FREQ_MAX] (rules R130, R141). -/
def Params.clampFreq (P : Params) (f : F32) : F32 := P.clamp f P.cfg.freqMin P.freqMax

/-- `(TWO_PI_F * f) / FS_F`: the angle a frequency advances per sample (rules R130, R143, R180, R182). -/
def Params.angle (P : Params) (f : F32) : F32 := P.div (P.mul F32.twoPi f) P.fs

/-- `p - TWO_PI_F` if `p >= TWO_PI_F` (rules R131, R143). -/
def Params.wrapPhase (P : Params) (p : F32) : F32 := if P.le F32.twoPi p then P.sub p F32.twoPi else p

/-! ### Oscillator -/

/-- OSC_SETFREQ (rule R130). -/
def Osc.setFreq (P : Params) (o : Osc) (f : F32) : Osc :=
  let freq := P.clampFreq f
  { o with freq := freq, inc := P.angle freq }

/-- OSC_ADVANCE (rule R131). -/
def Osc.advance (P : Params) (o : Osc) : Osc := { o with phase := P.wrapPhase (P.add o.phase o.inc) }

/-- The value OSC_SINE returns (rule R132). -/
def Osc.sineOut (P : Params) (o : Osc) : F32 := P.mul o.amp (P.sin o.phase)

/-- OSC_SINE (rule R132): the waveform at the phase before the advance. -/
def Osc.sine (P : Params) (o : Osc) : F32 × Osc := (o.sineOut P, o.advance P)

/-- The value OSC_SQUARE returns (rule R133). -/
def Osc.squareOut (P : Params) (o : Osc) : F32 := P.mul o.amp (if P.lt o.phase F32.pi then F32.one else F32.negOne)

/-- OSC_SQUARE (rule R133). -/
def Osc.square (P : Params) (o : Osc) : F32 × Osc := (o.squareOut P, o.advance P)

/-- The value OSC_SAW returns (rule R134). -/
def Osc.sawOut (P : Params) (o : Osc) : F32 := P.mul o.amp (P.sub (P.div o.phase F32.pi) F32.one)

/-- OSC_SAW (rule R134); no voice uses it. -/
def Osc.saw (P : Params) (o : Osc) : F32 × Osc := (o.sawOut P, o.advance P)

/-- OSC_SETAMP (rule R135). -/
def Osc.setAmp (o : Osc) (a : F32) : Osc := { o with amp := a }

/-! ### Noise generator -/

/-- RNG_NEXT (rule R136): the 32-bit xorshift with shifts 13, 17 and 5. -/
def rngNext (s : Word) : Word :=
  let a := s ^^^ (s <<< 13)
  let b := a ^^^ (a >>> 17)
  b ^^^ (b <<< 5)

/-- The draw that NOISE_DRAW makes of a generator word (rule R137): the word, signed, shifted right by 8, times 2^-23. -/
def drawOf (P : Params) (s : Word) : F32 := P.mul (P.ofInt (s.sshiftRight 8).toInt) ⟨0x34000000#32⟩

/-- NOISE_DRAW (rule R137): the draw and the generator's next word. -/
def noiseDraw (P : Params) (rng : Word) : F32 × Word := (drawOf P (rngNext rng), rngNext rng)

/-- OSC_WHITE (rule R138): the output and the generator's next word; the phase does not advance. -/
def Osc.white (P : Params) (rng : Word) (o : Osc) : F32 × Word :=
  let d := noiseDraw P rng
  (P.mul o.amp d.1, d.2)

/-- The pink-noise memory after one draw `w` (rule R139). -/
def Osc.pinkStep (P : Params) (o : Osc) (w : F32) : F32 := P.add (P.mul P.cfg.pinkA o.pink) (P.mul P.cfg.pinkB w)

/-- OSC_PINK (rule R139). -/
def Osc.pinkNoise (P : Params) (rng : Word) (o : Osc) : F32 × Word × Osc :=
  let d := noiseDraw P rng
  let y := o.pinkStep P d.1
  (P.mul o.amp y, d.2, { o with pink := y })

/-- OSC_RESTART (rule R140); `frt` is `FRT[v]` of the voice that owns the oscillator. -/
def Osc.restart (frt : Bool) (o : Osc) : Osc :=
  { o with phase := F32.zero, pink := if frt then F32.zero else o.pink }

/-! ### Bridged-T oscillator -/

/-- BT_SETFREQ (rule R141). -/
def Bt.setFreq (P : Params) (b : Bt) (f : F32) : Bt := { b with freq := P.clampFreq f }

/-- `max(ms, TIME_MIN_MS)` (rules R141, R165). -/
def Params.clampTime (P : Params) (ms : F32) : F32 := P.max ms P.cfg.timeMinMs

/-- The decay rate of a decay time: `1000 / (decayMs * FS_F)` (rule R141). -/
def Params.decayRate (P : Params) (ms : F32) : F32 := P.div (F32.lit 1000 0) (P.mul ms P.fs)

/-- BT_SETDECAY (rule R141). -/
def Bt.setDecay (P : Params) (b : Bt) (ms : F32) : Bt :=
  let d := P.clampTime ms
  { b with decayMs := d, decayRate := P.decayRate d }

/-- BT_TRIGGER (rule R142). -/
def Bt.trigger (b : Bt) : Bt := { b with amp := F32.one, phase := F32.zero, active := true }

/-- The frequency a ringing bridged-T advances at: it droops with the amplitude (rule R143). -/
def Bt.droop (P : Params) (b : Bt) : F32 := P.mul b.freq (P.sub F32.one (P.mul P.cfg.btFm b.amp))

/-- The value BT_GEN returns (rule R143). -/
def Bt.out (P : Params) (b : Bt) : F32 := if b.active then P.mul b.amp (P.sin b.phase) else F32.zero

/-- What BT_GEN leaves (rule R143): the phase advanced with the amplitude before the decay, the amplitude decayed, the
oscillator silenced at the threshold. -/
def Bt.next (P : Params) (b : Bt) : Bt :=
  if b.active then
    let amp := P.mul b.amp (P.sub F32.one b.decayRate)
    { b with
      phase := P.wrapPhase (P.add b.phase (P.angle (b.droop P)))
      amp := amp
      active := !P.le amp F32.thresh }
  else b

/-- BT_GEN (rule R143). -/
def Bt.gen (P : Params) (b : Bt) : F32 × Bt := (b.out P, b.next P)

/-! ### Inharmonic oscillator -/

/-- INH_GEN (rule R144). -/
def Inh.gen (P : Params) (h : Inh) : F32 × Inh :=
  let s1 := h.o1.sine P
  let s2 := h.o2.sine P
  (P.add (P.mul (P.sub F32.one h.mix) s1.1) (P.mul h.mix s2.1), { h with o1 := s1.2, o2 := s2.2 })

/-- INH_RESTART (rule R145) for the oscillator function `f` (OSC_RESTART, by TRIG). -/
def Inh.map (f : Osc → Osc) (h : Inh) : Inh := { h with o1 := f h.o1, o2 := f h.o2 }

/-- INH_RESTART (rule R145). -/
def Inh.restart (frt : Bool) (h : Inh) : Inh := h.map (Osc.restart frt)

end Sys2Proof
end

