-- ==== Sys2Proof/Machine/Envelope.lean ====
section
/-!
DEFINITION. The envelope: a linear attack, decay and sustain evaluator over a sample age (rules R160 to R167).
-/

namespace Sys2Proof

/-- `AGE_MAX` (rule R20). -/
def ageMax : Word := 0xFFFFFFFF#32

/-- `sat32(a + 1)` (rules R12, R164). -/
def satInc (a : Word) : Word := if a = ageMax then ageMax else a + 1

/-- `f32(age) * TS_MS`: the time of a tick count in milliseconds (rules R160, R291). -/
def Params.timeOf (P : Params) (age : Word) : F32 := P.mul (P.ofWord age) P.tsMs

/-- ENV_TIME (rule R160). -/
def Env.time (P : Params) (e : Env) : F32 := P.timeOf e.age

/-- ENV_LEVEL (rule R161). -/
def Env.level (P : Params) (e : Env) : F32 :=
  let t := e.time P
  if e.isActive then
    if P.lt t e.attackMs then P.div t e.attackMs
    else if P.lt t (P.add e.attackMs e.decayMs) then
      P.sub F32.one (P.mul (P.sub F32.one e.sustain) (P.div (P.sub t e.attackMs) e.decayMs))
    else e.sustain
  else F32.zero

/-- ENV_DONE (rule R162). -/
def Env.done (P : Params) (e : Env) : Bool :=
  if e.isActive then P.le e.attackMs (e.time P) && P.le (e.level P) F32.thresh else true

/-- ENV_TRIGGER (rule R163). -/
def Env.trigger (e : Env) : Env := { e with age := 0#32, isActive := true }

/-- ENV_ADVANCE (rule R164). -/
def Env.advance (e : Env) : Env := { e with age := satInc e.age }

/-- What a voice's completion does to each of its envelopes (rule R210). -/
def Env.deactivate (e : Env) : Env := { e with isActive := false }

/-- ENV_SETATTACK (rule R165). -/
def Env.setAttack (P : Params) (e : Env) (ms : F32) : Env := { e with attackMs := P.clampTime ms }

/-- ENV_SETDECAY (rule R165). -/
def Env.setDecay (P : Params) (e : Env) (ms : F32) : Env := { e with decayMs := P.clampTime ms }

/-- ENV_SETRELEASE (rule R165). -/
def Env.setRelease (P : Params) (e : Env) (ms : F32) : Env := { e with releaseMs := P.clampTime ms }

/-- ENV_SETSUSTAIN (rule R165). -/
def Env.setSustain (P : Params) (e : Env) (s : F32) : Env := { e with sustain := P.clamp s F32.zero F32.one }

/-- ENV_NOTEACTIVE (rule R166); no voice and no command reads it. -/
def Env.noteActive (P : Params) (e : Env) : Bool := e.isActive && P.lt F32.thresh (e.level P)

end Sys2Proof
end

