-- ==== Sys2Proof/Machine/Filter.lean ====
section
/-!
DEFINITION. The filter: one-pole low-pass and high-pass, two-pole band-pass (rules R180 to R186).
-/

namespace Sys2Proof

/-- FLT_BPCOEF (rule R182). -/
def Flt.bpCoef (P : Params) (f : Flt) : Flt :=
  let w := P.angle f.cutoff
  let a := P.div (P.sin w) (P.mul (F32.lit 2 0) f.q)
  let d := P.add F32.one a
  { f with
    beta := P.div a d
    gamma := P.div (P.mul (F32.lit 2 0) (P.cos w)) d
    delta := P.div (P.sub F32.one a) d }

/-- The one-pole coefficient of a cutoff (rule R180). -/
def Params.onePole (P : Params) (cutoff : F32) : F32 :=
  let w := P.angle cutoff
  P.div w (P.add w F32.one)

/-- FLT_SETCUTOFF (rule R180). -/
def Flt.setCutoff (P : Params) (f : Flt) (fc : F32) : Flt :=
  let c := P.clamp fc P.cfg.filtMin P.freqMax
  Flt.bpCoef P { f with cutoff := c, alpha := P.onePole c }

/-- FLT_SETRES (rule R181). -/
def Flt.setRes (P : Params) (f : Flt) (q : F32) : Flt := Flt.bpCoef P { f with q := P.clamp q P.cfg.qMin P.cfg.qMax }

/-- The value FLT_LP returns (rule R183). -/
def Flt.lpOut (P : Params) (f : Flt) (x : F32) : F32 :=
  P.add (P.mul f.alpha x) (P.mul (P.sub F32.one f.alpha) f.y1)

/-- FLT_LP (rule R183). -/
def Flt.lowPass (P : Params) (f : Flt) (x : F32) : F32 × Flt :=
  let y := f.lpOut P x
  (y, { f with y1 := y })

/-- The value FLT_HP returns (rule R184). -/
def Flt.hpOut (P : Params) (f : Flt) (x : F32) : F32 := P.mul f.alpha (P.add (P.sub x f.x1) f.y1)

/-- FLT_HP (rule R184). -/
def Flt.highPass (P : Params) (f : Flt) (x : F32) : F32 × Flt :=
  let y := f.hpOut P x
  (y, { f with x1 := x, y1 := y })

/-- The value FLT_BP returns (rule R185). -/
def Flt.bpOut (P : Params) (f : Flt) (x : F32) : F32 :=
  P.sub (P.add (P.mul f.beta (P.sub x f.x2)) (P.mul f.gamma f.y1)) (P.mul f.delta f.y2)

/-- FLT_BP (rule R185). -/
def Flt.bandPass (P : Params) (f : Flt) (x : F32) : F32 × Flt :=
  let y := f.bpOut P x
  (y, { f with x2 := f.x1, x1 := x, y2 := f.y1, y1 := y })

/-- FLT_RESET (rule R186). -/
def Flt.clear (f : Flt) : Flt := { f with x1 := F32.zero, x2 := F32.zero, y1 := F32.zero, y2 := F32.zero }

end Sys2Proof
end

