-- ==== Sys2Proof/Machine/Processor.lean ====
section
/-!
DEFINITION. The processor: soft saturation and gain (rules R200 to R203).
-/

namespace Sys2Proof

/-- PROC_SAT (rule R200). -/
def Proc.saturate (P : Params) (p : Proc) (x : F32) : F32 :=
  if P.le p.sat F32.zero then x else P.div (P.tanh (P.mul x p.sat)) p.sat

/-- PROC_RUN (rule R201). -/
def Proc.run (P : Params) (p : Proc) (x : F32) : F32 := P.mul (p.saturate P x) p.gain

/-- PROC_SETGAIN (rule R202). -/
def Proc.setGain (p : Proc) (g : F32) : Proc := { p with gain := g }

/-- PROC_SETSAT (rule R202). -/
def Proc.setSat (p : Proc) (s : F32) : Proc := { p with sat := s }

end Sys2Proof
end

