-- ==== Sys2Proof/Machine/VoiceProcess.lean ====
section
/-!
DEFINITION. What every voice has in common: VOICE_PROCESS (rule R210), VOICE_DONE (rule R211) and the trigger steps of
TRIG (rule R312), each said once over a voice template.
-/

namespace Sys2Proof

/-- VOICE_DONE (rule R211). -/
def voiceDone {V : Type} (T : Template V) (P : Params) (v : V) : Bool :=
  (T.controlling v).all (Env.done P) && !T.waits v

/-- The voice after its completion (rule R210). -/
def voiceStop {V : Type} (T : Template V) (v : V) : V := T.setPlaying false (T.mapEnvs Env.deactivate v)

/-- The voice record after the graph of a Sounding tick: the ages advance, then the completion test (rule R210). -/
def voiceSettle {V : Type} (T : Template V) (P : Params) (v : V) : V :=
  let w := T.mapEnvs Env.advance v
  if voiceDone T P w then voiceStop T w else w

/-- VOICE_PROCESS (rule R210): an Idle voice returns `+0.0` and changes nothing. -/
def voiceProcess {V : Type} (T : Template V) (P : Params) (rng : Word) (v : V) : Run V :=
  if T.isPlaying v then
    let g := T.graph P rng v
    ⟨(T.proc v).run P (P.mul (T.vel v) g.out), g.rng, voiceSettle T P g.voice⟩
  else ⟨F32.zero, rng, v⟩

/-- The steps TRIG takes in every voice, and then the voice's own step (rule R312). -/
def voiceTrigger {V : Type} (T : Template V) (P : Params) (val : F32) (v : V) : V :=
  let v1 := T.setPlaying true (T.setVel (P.clamp val F32.zero F32.one) v)
  let v2 := T.mapBts Bt.trigger (T.mapOscs (Osc.restart (P.frt T.id)) (T.mapEnvs Env.trigger v1))
  T.onTrigger P (if P.frt T.id then T.mapFlts Flt.clear v2 else v2)

end Sys2Proof
end

