-- ==== Sys2Proof/Machine/VoicesKickToHihat.lean ====
section
/-!
DEFINITION. The voices Kick, Snare, Cymbal and HiHat: their signal graphs, templates and parameter effects (rules R213
to R237).
-/

namespace Sys2Proof

/-- A parameter value clamped into its register's legal range (rules R22, R54). -/
def Params.clampTo (P : Params) (r : Range) (val : F32) : F32 := P.clamp val r.lo r.hi

/-! ### Kick -/

/-- The frequency the pitch envelope gives the Kick's bridged-T (rule R214). -/
def Kick.pitch (P : Params) (k : Kick) : F32 :=
  P.mul P.cfg.kickBase (P.add F32.one (P.mul P.cfg.kickPitchDepth (k.pitchEnv.level P)))

/-- GRAPH_KICK (rule R214). -/
def kickGraph (P : Params) (rng : Word) (k : Kick) : Run Kick :=
  let g := (k.bt.setFreq P (k.pitch P)).gen P
  let t := k.lp.lowPass P g.1
  let s := k.sub.sine P
  ⟨P.mul (k.ampEnv.level P) (P.add t.1 (P.mul P.cfg.kickSubW s.1)), rng, { k with bt := g.2, lp := t.2, sub := s.2 }⟩

/-- The Kick's template (rules R41, R215). -/
def kickTemplate : Template Kick where
  id := .kick
  isPlaying := Kick.isPlaying
  setPlaying b k := { k with isPlaying := b }
  vel := Kick.vel
  setVel x k := { k with vel := x }
  proc := Kick.proc
  mapEnvs f k := { k with ampEnv := f k.ampEnv, pitchEnv := f k.pitchEnv }
  mapOscs f k := { k with sub := f k.sub }
  mapBts f k := { k with bt := f k.bt }
  mapFlts f k := { k with lp := f k.lp }
  controlling k := [k.ampEnv]
  waits _ := false
  graph := kickGraph
  onTrigger _ k := k

/-- The Kick's DECAY effect (rule R213). -/
def Kick.setDecay (P : Params) (k : Kick) (val : F32) : Kick :=
  let d := P.clampTo P.cfg.kickDecay val
  { k with decay := d, ampEnv := k.ampEnv.setDecay P d, bt := k.bt.setDecay P d }

/-- The Kick's low-pass cutoff for a tone (rule R213). -/
def Params.kickCutoff (P : Params) (tone : F32) : F32 :=
  P.add P.cfg.kickLpMin (P.mul tone (P.sub P.cfg.kickLpMax P.cfg.kickLpMin))

/-- The Kick's TONE effect (rule R213). -/
def Kick.setTone (P : Params) (k : Kick) (val : F32) : Kick :=
  let t := P.clampTo P.cfg.kickTone val
  { k with tone := t, lp := k.lp.setCutoff P (P.kickCutoff t) }

/-! ### Snare -/

/-- GRAPH_SNARE (rule R220). -/
def snareGraph (P : Params) (rng : Word) (s : Snare) : Run Snare :=
  let g1 := s.bt1.gen P
  let g2 := s.bt2.gen P
  let t := P.add (P.mul (F32.lit 5 1) g1.1) (P.mul (F32.lit 5 1) g2.1)
  let w := s.noise.white P rng
  let n := s.hp.highPass P w.1
  ⟨P.add (P.mul s.tone (P.mul t (s.toneEnv.level P))) (P.mul n.1 (s.snapEnv.level P)), w.2,
    { s with bt1 := g1.2, bt2 := g2.2, hp := n.2 }⟩

/-- The Snare's template (rules R42, R221). -/
def snareTemplate : Template Snare where
  id := .snare
  isPlaying := Snare.isPlaying
  setPlaying b s := { s with isPlaying := b }
  vel := Snare.vel
  setVel x s := { s with vel := x }
  proc := Snare.proc
  mapEnvs f s := { s with toneEnv := f s.toneEnv, snapEnv := f s.snapEnv }
  mapOscs f s := { s with noise := f s.noise }
  mapBts f s := { s with bt1 := f s.bt1, bt2 := f s.bt2 }
  mapFlts f s := { s with hp := f s.hp }
  controlling s := [s.toneEnv, s.snapEnv]
  waits _ := false
  graph := snareGraph
  onTrigger _ s := s

/-- The Snare's TONE effect (rule R222). -/
def Snare.setTone (P : Params) (s : Snare) (val : F32) : Snare := { s with tone := P.clampTo P.cfg.snareTone val }

/-- The Snare's noise decay for a snappy value (rule R222). -/
def Params.snapDecay (P : Params) (snappy : F32) : F32 :=
  P.add P.cfg.snapMin (P.mul snappy (P.sub P.cfg.snapMax P.cfg.snapMin))

/-- The Snare's SNAPPY effect (rule R222). -/
def Snare.setSnappy (P : Params) (s : Snare) (val : F32) : Snare :=
  let x := P.clampTo P.cfg.snareSnappy val
  { s with snappy := x, snapEnv := s.snapEnv.setDecay P (P.snapDecay x) }

/-! ### Cymbal -/

/-- The sum of a bank's six squares divided by 6, and the bank after them (rules R228, R234). -/
def Bank.average (P : Params) (b : Bank) : F32 × Bank :=
  let s01 := P.add (b.osc0.squareOut P) (b.osc1.squareOut P)
  let s02 := P.add s01 (b.osc2.squareOut P)
  let s03 := P.add s02 (b.osc3.squareOut P)
  let s04 := P.add s03 (b.osc4.squareOut P)
  let s05 := P.add s04 (b.osc5.squareOut P)
  (P.div s05 (F32.lit 6 0), b.map (Osc.advance P))

/-- GRAPH_CYMBAL (rule R228). -/
def cymbalGraph (P : Params) (rng : Word) (c : Cymbal) : Run Cymbal :=
  let m := c.osc.average P
  let f1 := c.bp1.bandPass P m.1
  let f2 := c.bp2.bandPass P m.1
  let h := c.hp.highPass P (P.add (P.mul P.cfg.cymW1 f1.1) (P.mul P.cfg.cymW2 f2.1))
  ⟨P.mul h.1 (c.env.level P), rng, { c with osc := m.2, bp1 := f1.2, bp2 := f2.2, hp := h.2 }⟩

/-- The Cymbal's template (rules R43, R229). -/
def cymbalTemplate : Template Cymbal where
  id := .cymbal
  isPlaying := Cymbal.isPlaying
  setPlaying b c := { c with isPlaying := b }
  vel := Cymbal.vel
  setVel x c := { c with vel := x }
  proc := Cymbal.proc
  mapEnvs f c := { c with env := f c.env }
  mapOscs f c := { c with osc := c.osc.map f }
  mapBts _ c := c
  mapFlts f c := { c with bp1 := f c.bp1, bp2 := f c.bp2, hp := f c.hp }
  controlling c := [c.env]
  waits _ := false
  graph := cymbalGraph
  onTrigger _ c := c

/-- The Cymbal's DECAY effect (rule R230). -/
def Cymbal.setDecay (P : Params) (c : Cymbal) (val : F32) : Cymbal :=
  let d := P.clampTo P.cfg.cymbalDecay val
  { c with decay := d, env := c.env.setDecay P d }

/-- The centre of the Cymbal's first band-pass for a tone (rule R230). -/
def Params.cymbalCentre1 (P : Params) (tone : F32) : F32 := P.add P.cfg.cymBp1Min (P.mul tone P.cfg.cymBp1Span)

/-- The centre of the Cymbal's second band-pass for a tone (rule R230). -/
def Params.cymbalCentre2 (P : Params) (tone : F32) : F32 := P.add P.cfg.cymBp2Min (P.mul tone P.cfg.cymBp2Span)

/-- The Cymbal's TONE effect (rule R230). -/
def Cymbal.setTone (P : Params) (c : Cymbal) (val : F32) : Cymbal :=
  let t := P.clampTo P.cfg.cymbalTone val
  { c with
    tone := t
    bp1 := c.bp1.setCutoff P (P.cymbalCentre1 t)
    bp2 := c.bp2.setCutoff P (P.cymbalCentre2 t) }

/-! ### HiHat -/

/-- GRAPH_HIHAT (rule R234). -/
def hihatGraph (P : Params) (rng : Word) (h : Hihat) : Run Hihat :=
  let m := h.osc.average P
  let b := h.bp.bandPass P m.1
  let x := h.hp.highPass P b.1
  ⟨P.mul x.1 (h.env.level P), rng, { h with osc := m.2, bp := b.2, hp := x.2 }⟩

/-- The HiHat's template (rules R44, R235). -/
def hihatTemplate : Template Hihat where
  id := .hihat
  isPlaying := Hihat.isPlaying
  setPlaying b h := { h with isPlaying := b }
  vel := Hihat.vel
  setVel x h := { h with vel := x }
  proc := Hihat.proc
  mapEnvs f h := { h with env := f h.env }
  mapOscs f h := { h with osc := h.osc.map f }
  mapBts _ h := h
  mapFlts f h := { h with bp := f h.bp, hp := f h.hp }
  controlling h := [h.env]
  waits _ := false
  graph := hihatGraph
  onTrigger _ h := h

/-- The HiHat's decay time for its OPEN register (rules R44, R236). -/
def Params.hihatDecay (P : Params) (opened : Bool) : F32 := if opened then P.cfg.hhOpenMs else P.cfg.hhClosedMs

/-- The HiHat's OPEN effect (rule R236). -/
def Hihat.setOpen (P : Params) (h : Hihat) (val : F32) : Hihat :=
  let o := P.le P.cfg.hhOpenAt val
  { h with opened := o, env := h.env.setDecay P (P.hihatDecay o) }

end Sys2Proof
end

