-- ==== Sys2Proof/Machine/VoicesTomToCowbell.lean ====
section
/-!
DEFINITION. The voices Tom, Conga, Rimshot, Maracas, Clap and Cowbell: their signal graphs, templates and parameter
effects (rules R260 to R300).
-/

namespace Sys2Proof

/-! ### Tom and Conga -/

/-- The tonal and the pink-noise layer that Tom and Conga share, the noise at weight `w` (rules R260, R270). -/
def drumLayers (P : Params) (w : F32) (rng : Word) (d : Drum) : Run Drum :=
  let g := d.bt.gen P
  let t := P.mul g.1 (d.toneEnv.level P)
  let k := d.pinkOsc.pinkNoise P rng
  let l := d.lp.lowPass P k.1
  ⟨P.add t (P.mul w (P.mul l.1 (d.noiseEnv.level P))), k.2.1, { d with bt := g.2, pinkOsc := k.2.2, lp := l.2 }⟩

/-- The Tom's pitch bend, once per Sounding tick (rule R262). -/
def tomBend (P : Params) (d : Drum) : Drum := { d with bt := d.bt.setFreq P (P.mul d.bt.freq P.cfg.tomBend) }

/-- GRAPH_TOM (rule R260). -/
def tomGraph (P : Params) (rng : Word) (d : Drum) : Run Drum :=
  let r := drumLayers P P.cfg.tomNoiseW rng d
  { r with voice := tomBend P r.voice }

/-- GRAPH_CONGA (rule R270). -/
def congaGraph (P : Params) (rng : Word) (d : Drum) : Run Drum := drumLayers P P.cfg.congaNoiseW rng d

/-- The bridged-T at the voice's tuning: the Tom-specific and the Conga-specific step of TRIG (rules R261, R271). -/
def drumRetune (P : Params) (d : Drum) : Drum := { d with bt := d.bt.setFreq P d.tuning }

/-- The Tom's template (rules R45, R261). -/
def tomTemplate : Template Drum where
  id := .tom
  isPlaying := Drum.isPlaying
  setPlaying b d := { d with isPlaying := b }
  vel := Drum.vel
  setVel x d := { d with vel := x }
  proc := Drum.proc
  mapEnvs f d := { d with toneEnv := f d.toneEnv, noiseEnv := f d.noiseEnv }
  mapOscs f d := { d with pinkOsc := f d.pinkOsc }
  mapBts f d := { d with bt := f d.bt }
  mapFlts f d := { d with lp := f d.lp }
  controlling d := [d.toneEnv, d.noiseEnv]
  waits _ := false
  graph := tomGraph
  onTrigger := drumRetune

/-- The Conga's template: the Tom's with its own identifier and graph (rules R46, R271). -/
def congaTemplate : Template Drum := { tomTemplate with id := .conga, graph := congaGraph }

/-- The Tom's TUNING effect (rule R264). -/
def tomSetTuning (P : Params) (d : Drum) (val : F32) : Drum :=
  drumRetune P { d with tuning := P.clampTo P.cfg.tomTuning val }

/-- The Conga's TUNING effect (rule R272). -/
def congaSetTuning (P : Params) (d : Drum) (val : F32) : Drum :=
  drumRetune P { d with tuning := P.clampTo P.cfg.congaTuning val }

/-! ### Rimshot -/

/-- GRAPH_RIMSHOT (rule R276). -/
def rimshotGraph (P : Params) (rng : Word) (r : Rimshot) : Run Rimshot :=
  let g := r.inh.gen P
  let h := r.hp.highPass P g.1
  ⟨P.mul h.1 (r.env.level P), rng, { r with inh := g.2, hp := h.2 }⟩

/-- The Rimshot's template (rules R47, R277). -/
def rimshotTemplate : Template Rimshot where
  id := .rimshot
  isPlaying := Rimshot.isPlaying
  setPlaying b r := { r with isPlaying := b }
  vel := Rimshot.vel
  setVel x r := { r with vel := x }
  proc := Rimshot.proc
  mapEnvs f r := { r with env := f r.env }
  mapOscs f r := { r with inh := r.inh.map f }
  mapBts _ r := r
  mapFlts f r := { r with hp := f r.hp }
  controlling r := [r.env]
  waits _ := false
  graph := rimshotGraph
  onTrigger _ r := r

/-! ### Maracas -/

/-- GRAPH_MARACAS (rule R282). -/
def maracasGraph (P : Params) (rng : Word) (q : Maracas) : Run Maracas :=
  let w := q.noise.white P rng
  let h := q.hp.highPass P w.1
  ⟨P.mul h.1 (q.env.level P), w.2, { q with hp := h.2 }⟩

/-- The Maracas' template (rules R48, R283). -/
def maracasTemplate : Template Maracas where
  id := .maracas
  isPlaying := Maracas.isPlaying
  setPlaying b q := { q with isPlaying := b }
  vel := Maracas.vel
  setVel x q := { q with vel := x }
  proc := Maracas.proc
  mapEnvs f q := { q with env := f q.env }
  mapOscs f q := { q with noise := f q.noise }
  mapBts _ q := q
  mapFlts f q := { q with hp := f q.hp }
  controlling q := [q.env]
  waits _ := false
  graph := maracasGraph
  onTrigger _ q := q

/-! ### Clap -/

/-- The test of CLAP_BURST (rule R291): a burst is left and the spacing has passed. -/
def Clap.burstDue (P : Params) (p : Clap) : Bool :=
  decide (0 < p.burstsLeft) && P.le P.cfg.clapSpacingMs (P.timeOf p.burstAge)

/-- CLAP_BURST (rule R291). -/
def Clap.burst (P : Params) (p : Clap) : Clap :=
  if p.burstDue P then
    { p with sawEnv := p.sawEnv.trigger, burstsLeft := p.burstsLeft - 1, burstAge := 0#32 }
  else p

/-- GRAPH_CLAP (rule R288). -/
def clapGraph (P : Params) (rng : Word) (c : Clap) : Run Clap :=
  let p := c.burst P
  let w := p.noise.white P rng
  let b := p.bp.bandPass P w.1
  ⟨P.mul b.1 (P.add (p.sawEnv.level P) (p.revEnv.level P)), w.2,
    { p with bp := b.2, burstAge := satInc p.burstAge }⟩

/-- The Clap-specific step of TRIG (rule R289). -/
def clapStart (P : Params) (p : Clap) : Clap := { p with burstsLeft := P.cfg.clapBursts - 1, burstAge := 0#32 }

/-- The Clap's template (rules R49, R289). -/
def clapTemplate : Template Clap where
  id := .clap
  isPlaying := Clap.isPlaying
  setPlaying b p := { p with isPlaying := b }
  vel := Clap.vel
  setVel x p := { p with vel := x }
  proc := Clap.proc
  mapEnvs f p := { p with sawEnv := f p.sawEnv, revEnv := f p.revEnv }
  mapOscs f p := { p with noise := f p.noise }
  mapBts _ p := p
  mapFlts f p := { p with bp := f p.bp }
  controlling p := [p.sawEnv, p.revEnv]
  waits p := decide (p.burstsLeft ≠ 0)
  graph := clapGraph
  onTrigger := clapStart

/-! ### Cowbell -/

/-- GRAPH_COWBELL (rule R296). -/
def cowbellGraph (P : Params) (rng : Word) (b : Cowbell) : Run Cowbell :=
  let s1 := b.o1.square P
  let s2 := b.o2.square P
  let f := b.bp.bandPass P (P.add (P.mul P.cfg.cowW1 s1.1) (P.mul P.cfg.cowW2 s2.1))
  let h := b.hp.highPass P f.1
  ⟨P.mul h.1 (b.env.level P), rng, { b with o1 := s1.2, o2 := s2.2, bp := f.2, hp := h.2 }⟩

/-- The Cowbell's template (rules R50, R297). -/
def cowbellTemplate : Template Cowbell where
  id := .cowbell
  isPlaying := Cowbell.isPlaying
  setPlaying b c := { c with isPlaying := b }
  vel := Cowbell.vel
  setVel x c := { c with vel := x }
  proc := Cowbell.proc
  mapEnvs f c := { c with env := f c.env }
  mapOscs f c := { c with o1 := f c.o1, o2 := f c.o2 }
  mapBts _ c := c
  mapFlts f c := { c with bp := f c.bp, hp := f c.hp }
  controlling c := [c.env]
  waits _ := false
  graph := cowbellGraph
  onTrigger _ c := c

end Sys2Proof
end

