-- ==== Sys2Proof/Machine/Mixer.lean ====
section
/-!
DEFINITION. The polyphonic mixer, the hard clipper and the output quantiser (rules R321, R322).
-/

namespace Sys2Proof

/-- The ten voices' runs of one tick, in identifier order, each taking the noise word the one before it left (rule
R321). -/
structure Tick where
  kick : Run Kick
  snare : Run Snare
  cymbal : Run Cymbal
  hihat : Run Hihat
  tom : Run Drum
  conga : Run Drum
  rimshot : Run Rimshot
  maracas : Run Maracas
  clap : Run Clap
  cowbell : Run Cowbell
deriving DecidableEq, Repr

/-- VOICE_PROCESS of every voice, in identifier order (rule R321). -/
def runVoices (P : Params) (rng : Word) (vs : Voices) : Tick :=
  let kick := voiceProcess kickTemplate P rng vs.kick
  let snare := voiceProcess snareTemplate P kick.rng vs.snare
  let cymbal := voiceProcess cymbalTemplate P snare.rng vs.cymbal
  let hihat := voiceProcess hihatTemplate P cymbal.rng vs.hihat
  let tom := voiceProcess tomTemplate P hihat.rng vs.tom
  let conga := voiceProcess congaTemplate P tom.rng vs.conga
  let rimshot := voiceProcess rimshotTemplate P conga.rng vs.rimshot
  let maracas := voiceProcess maracasTemplate P rimshot.rng vs.maracas
  let clap := voiceProcess clapTemplate P maracas.rng vs.clap
  let cowbell := voiceProcess cowbellTemplate P clap.rng vs.cowbell
  ⟨kick, snare, cymbal, hihat, tom, conga, rimshot, maracas, clap, cowbell⟩

/-- The voice records a tick leaves. -/
def Tick.voices (t : Tick) : Voices :=
  { kick := t.kick.voice, snare := t.snare.voice, cymbal := t.cymbal.voice, hihat := t.hihat.voice
    tom := t.tom.voice, conga := t.conga.voice, rimshot := t.rimshot.voice, maracas := t.maracas.voice
    clap := t.clap.voice, cowbell := t.cowbell.voice }

/-- The noise word a tick leaves. -/
def Tick.rng (t : Tick) : Word := t.cowbell.rng

/-- The voices' outputs summed left to right (rule R321). -/
def Tick.sum (P : Params) (t : Tick) : F32 :=
  let s1 := P.add t.kick.out t.snare.out
  let s2 := P.add s1 t.cymbal.out
  let s3 := P.add s2 t.hihat.out
  let s4 := P.add s3 t.tom.out
  let s5 := P.add s4 t.conga.out
  let s6 := P.add s5 t.rimshot.out
  let s7 := P.add s6 t.maracas.out
  let s8 := P.add s7 t.clap.out
  P.add s8 t.cowbell.out

/-- The hard clip to [-1, 1] (rules R321, R322). -/
def Params.clip (P : Params) (x : F32) : F32 := P.clamp x F32.negOne F32.one

/-- The value MIX returns (rule R321). -/
def Tick.mix (P : Params) (master : F32) (t : Tick) : F32 := P.clip (P.mul (t.sum P) master)

/-- QUANT (rule R322). -/
def quantise (P : Params) (x : F32) : BitVec 16 := P.num.toInt16 (P.mul (P.clip x) (F32.lit 32767 0))

end Sys2Proof
end

