-- ==== Sys2Proof/Machine/ResetValues.lean ====
section
/-!
DEFINITION. What RESET leaves in the mixer and in the ten voices (rules R33 to R57, R380, R383).  Every derived element
is computed by the setter that derives it, as rule R380 says.
-/

namespace Sys2Proof

/-- An oscillator after RESET. -/
def Osc.reset (P : Params) (freq amp : F32) : Osc :=
  (Osc.setAmp ⟨F32.zero, F32.zero, F32.zero, F32.zero, F32.zero⟩ amp).setFreq P freq

/-- A noise oscillator after RESET (log entry 5: no rule gives its frequency). -/
def noiseReset (P : Params) : Osc := Osc.reset P P.cfg.noiseOscFreq P.cfg.oscAmp

/-- The six-oscillator bank after RESET at amplitude `amp` (rules R43, R44). -/
def bankReset (P : Params) (amp : F32) : Bank :=
  ⟨Osc.reset P P.cfg.cymF0 amp, Osc.reset P P.cfg.cymF1 amp, Osc.reset P P.cfg.cymF2 amp,
    Osc.reset P P.cfg.cymF3 amp, Osc.reset P P.cfg.cymF4 amp, Osc.reset P P.cfg.cymF5 amp⟩

/-- A bridged-T after RESET (rule R35). -/
def Bt.reset (P : Params) (freq ms : F32) : Bt :=
  (Bt.setFreq P ⟨F32.zero, F32.zero, F32.zero, F32.zero, F32.zero, false⟩ freq).setDecay P ms

/-- An envelope after RESET (rule R37) with the configured decay. -/
def Env.reset (P : Params) (ms : F32) : Env :=
  Env.setDecay P ⟨P.cfg.attMs, F32.zero, P.cfg.timeMinMs, P.cfg.sustain, 0#32, false⟩ ms

/-- A filter after RESET (rule R38): delay registers zero, the configured resonance, then the configured cutoff. -/
def Flt.reset (P : Params) (q fc : F32) : Flt :=
  let z := F32.zero
  (Flt.setRes P (Flt.clear ⟨z, z, z, z, z, z, z, z, z, z⟩) q).setCutoff P fc

/-- A low-pass or high-pass filter after RESET: its resonance is 1.0 (rule R38). -/
def onePoleReset (P : Params) (fc : F32) : Flt := Flt.reset P F32.one fc

/-- A processor after RESET (rule R39). -/
def Proc.reset (gain sat : F32) : Proc := ⟨gain, sat⟩

/-- The Kick after RESET (rule R41), its registers at their reset values. -/
def kickReset (P : Params) : Kick :=
  let d := P.cfg.kickDecay.dflt
  let t := P.cfg.kickTone.dflt
  { isPlaying := false, vel := F32.zero
    bt := Bt.reset P P.cfg.kickBase d
    sub := Osc.reset P P.cfg.kickSubFreq P.cfg.oscAmp
    ampEnv := Env.reset P d, pitchEnv := Env.reset P P.cfg.kickPitchDecay
    lp := onePoleReset P (P.kickCutoff t)
    proc := Proc.reset P.cfg.kickGain P.cfg.kickSat
    decay := d, tone := t }

/-- The Snare after RESET (rule R42). -/
def snareReset (P : Params) : Snare :=
  let x := P.cfg.snareSnappy.dflt
  { isPlaying := false, vel := F32.zero
    bt1 := Bt.reset P P.cfg.snareF1 P.cfg.snareTonalDecay
    bt2 := Bt.reset P (P.add P.cfg.snareF1 P.cfg.snareDetune) P.cfg.snareTonalDecay
    toneEnv := Env.reset P P.cfg.snareTonalDecay
    noise := noiseReset P
    hp := onePoleReset P P.cfg.snareHpFc
    snapEnv := Env.reset P (P.snapDecay x)
    proc := Proc.reset P.cfg.snareGain P.cfg.snareSat
    tone := P.cfg.snareTone.dflt, snappy := x }

/-- The Cymbal after RESET (rule R43). -/
def cymbalReset (P : Params) : Cymbal :=
  let d := P.cfg.cymbalDecay.dflt
  let t := P.cfg.cymbalTone.dflt
  { isPlaying := false, vel := F32.zero
    osc := bankReset P P.cfg.oscAmp
    bp1 := Flt.reset P P.cfg.cymQ (P.cymbalCentre1 t), bp2 := Flt.reset P P.cfg.cymQ (P.cymbalCentre2 t)
    hp := onePoleReset P P.cfg.cymHpFc
    env := Env.reset P d
    proc := Proc.reset P.cfg.cymGain P.cfg.cymSat
    decay := d, tone := t }

/-- The HiHat after RESET (rule R44). -/
def hihatReset (P : Params) : Hihat :=
  { isPlaying := false, vel := F32.zero
    osc := bankReset P P.cfg.hhOscAmp
    bp := Flt.reset P P.cfg.hhQ P.cfg.hhBpFc
    hp := onePoleReset P P.cfg.hhHpFc
    env := Env.reset P (P.hihatDecay P.cfg.hhOpenDef)
    proc := Proc.reset P.cfg.hhGain P.cfg.hhSat
    opened := P.cfg.hhOpenDef }

/-- The Tom after RESET (rule R45). -/
def tomReset (P : Params) : Drum :=
  { isPlaying := false, vel := F32.zero
    bt := Bt.reset P P.cfg.tomTuning.dflt P.cfg.tomBtDecay
    toneEnv := Env.reset P P.cfg.tomToneDecay
    pinkOsc := noiseReset P
    lp := onePoleReset P P.cfg.tomLpFc
    noiseEnv := Env.reset P P.cfg.tomNoiseDecay
    proc := Proc.reset P.cfg.tomGain P.cfg.tomSat
    tuning := P.cfg.tomTuning.dflt }

/-- The Conga after RESET (rule R46). -/
def congaReset (P : Params) : Drum :=
  { isPlaying := false, vel := F32.zero
    bt := Bt.reset P P.cfg.congaTuning.dflt P.cfg.congaBtDecay
    toneEnv := Env.reset P P.cfg.congaToneDecay
    pinkOsc := noiseReset P
    lp := onePoleReset P P.cfg.congaLpFc
    noiseEnv := Env.reset P P.cfg.congaNoiseDecay
    proc := Proc.reset P.cfg.congaGain P.cfg.congaSat
    tuning := P.cfg.congaTuning.dflt }

/-- The Rimshot after RESET (rules R36, R47). -/
def rimshotReset (P : Params) : Rimshot :=
  { isPlaying := false, vel := F32.zero
    inh := ⟨Osc.reset P P.cfg.rimF1 P.cfg.oscAmp, Osc.reset P P.cfg.rimF2 P.cfg.oscAmp, P.cfg.rimMix⟩
    hp := onePoleReset P P.cfg.rimHpFc
    env := Env.reset P P.cfg.rimDecay
    proc := Proc.reset P.cfg.rimGain P.cfg.rimSat }

/-- The Maracas after RESET (rule R48). -/
def maracasReset (P : Params) : Maracas :=
  { isPlaying := false, vel := F32.zero
    noise := noiseReset P
    hp := onePoleReset P P.cfg.marHpFc
    env := Env.reset P P.cfg.marDecay
    proc := Proc.reset P.cfg.marGain P.cfg.marSat }

/-- The Clap after RESET (rule R49). -/
def clapReset (P : Params) : Clap :=
  { isPlaying := false, vel := F32.zero
    noise := noiseReset P
    bp := Flt.reset P P.cfg.clapQ P.cfg.clapBpFc
    sawEnv := Env.reset P P.cfg.clapSawDecay, revEnv := Env.reset P P.cfg.clapRevDecay
    proc := Proc.reset P.cfg.clapGain P.cfg.clapSat
    burstsLeft := 0, burstAge := 0#32 }

/-- The Cowbell after RESET (rule R50). -/
def cowbellReset (P : Params) : Cowbell :=
  { isPlaying := false, vel := F32.zero
    o1 := Osc.reset P P.cfg.cowF1 P.cfg.oscAmp, o2 := Osc.reset P P.cfg.cowF2 P.cfg.oscAmp
    bp := Flt.reset P P.cfg.cowQ P.cfg.cowBpFc
    hp := onePoleReset P P.cfg.cowHpFc
    env := Env.reset P P.cfg.cowDecay
    proc := Proc.reset P.cfg.cowGain P.cfg.cowSat }

/-- The ten voices after RESET (rule R380). -/
def voicesReset (P : Params) : Voices :=
  { kick := kickReset P, snare := snareReset P, cymbal := cymbalReset P, hihat := hihatReset P, tom := tomReset P
    conga := congaReset P, rimshot := rimshotReset P, maracas := maracasReset P, clap := clapReset P
    cowbell := cowbellReset P }

/-- The mixer record and the noise word after RESET (rules R51, R52, R380). -/
def mixerReset (P : Params) : Mixer :=
  { master := P.cfg.masterDef, mix := F32.zero, cmdErr := false, rng := P.noiseSeed }

end Sys2Proof
end

