-- ==== Sys2Proof/Machine/State.lean ====
section
/-!
DEFINITION. The state of the machine: the block's state (rule R30: the mixer record, the noise word in it, and the ten
voice records), and two fields of the model's own that stand for the two ports and the RESET input.
-/

namespace Sys2Proof.Machine

/-- One thing that reaches the block (rules R6, R100, R380): a command on a port, or the RESET signal. -/
inductive Input
  | command (port : Port) (cw dw : Word)
  | reset
deriving DecidableEq, Repr

/-- The response word that a command returns to the port that issued it (rules R100, R105). -/
structure Response where
  port : Port
  word : Word
deriving DecidableEq, Repr

/-- The machine.  Plain data. -/
structure State where
  /-- `M` with `M.rng` (rules R51, R52) -/
  mixer : Mixer
  /-- `V[0..9]` (rules R40 to R50) -/
  voices : Voices
  /-- the model's own (log entry 6): what the two agents and the platform have sent and the block has not yet taken,
  in the order in which the block will take it; any interleaving of the agents is some list -/
  inbox : List Input
  /-- the model's own (log entry 7): the responses given so far, the newest first -/
  out : List Response
deriving DecidableEq, Repr

/-- No fault exists: the block raises no exception of any kind (rule R350), and no behaviour of the spec is treated as
a fault or a stuck state (93_implementation_defined.md, Part 1). -/
inductive Fault
deriving DecidableEq, Repr

/-- A step the model does not make. -/
inductive Refusal
  /-- Raised only by an arm of `exec` for a command with no meaning yet; no arm raises it.  Safe. -/
  | notModelled (mnemonic : String)
deriving DecidableEq, Repr

/-- The machine with the parameters `P` right after RESET, with nothing sent to it yet (rules R57, R380, R381). -/
def State.resetOf (P : Params) : State := { mixer := mixerReset P, voices := voicesReset P, inbox := [], out := [] }

/-- The machine right after RESET at the reference values of the parameters (rules R7, R383). -/
def State.reset : State := State.resetOf reference

end Sys2Proof.Machine
end

