-- ==== Sys2Proof/Machine/Flags.lean ====
section
/-!
DEFINITION. The flags a command reads or writes: the sticky error flag and the STATUS word (rules R53, R55).  The other
flags (`isPlaying`, `isActive`, `active`, `open`) are written where the rule that writes them stands.
-/

namespace Sys2Proof.Machine

/-- `M.cmdErr <- b` (rules R53, R314, R315). -/
def State.setErr (b : Bool) (s : State) : State := { s with mixer := { s.mixer with cmdErr := b } }

/-- A flag as bit `i` of a word. -/
def flagBit (b : Bool) (i : Nat) : Word := if b then BitVec.ofNat 32 (2 ^ i) else 0#32

/-- The ACTIVE field: bit v is `V[v].isPlaying` (rule R55). -/
def activeField (vs : Voices) : Word :=
  flagBit vs.kick.isPlaying 0 ||| flagBit vs.snare.isPlaying 1 ||| flagBit vs.cymbal.isPlaying 2
    ||| flagBit vs.hihat.isPlaying 3 ||| flagBit vs.tom.isPlaying 4 ||| flagBit vs.conga.isPlaying 5
    ||| flagBit vs.rimshot.isPlaying 6 ||| flagBit vs.maracas.isPlaying 7 ||| flagBit vs.clap.isPlaying 8
    ||| flagBit vs.cowbell.isPlaying 9

/-- The STATUS word (rule R55). -/
def statusWord (s : State) : Word := activeField s.voices ||| flagBit s.mixer.cmdErr 16

end Sys2Proof.Machine
end

