-- ==== Sys2Proof/Machine/Ops.lean ====
section
/-!
DEFINITION. The named operations over the whole state: giving a response, taking the next input, rejecting a command,
RESET, triggering a voice, writing a control register, and the tick.  The block has no memory, no exception entry and
no return from one (rules R80, R350, R355, R356); rejection (rule R314) is its one answer to a bad command.
-/

namespace Sys2Proof.Machine

/-- The response `w` goes to port `p` (rules R100, R105). -/
def State.respond (p : Port) (w : Word) (s : State) : State := { s with out := ⟨p, w⟩ :: s.out }

/-- The state with `rest` still to be taken. -/
def State.awaiting (rest : List Input) (s : State) : State := { s with inbox := rest }

/-- Rejection (rule R314): the error flag is set, the response is 0, nothing else changes. -/
def State.reject (p : Port) (s : State) : State := (s.setErr true).respond p 0#32

/-- RESET (rule R380): the block's state goes to its reset values; what is still to be taken and the responses already
given are not the block's state (log entry 9). -/
def State.resetBlock (P : Params) (s : State) : State := { s with mixer := mixerReset P, voices := voicesReset P }

/-- The TRIG effect on the voice records (rule R312). -/
def triggerVoice (P : Params) (v : Voice) (val : F32) (vs : Voices) : Voices :=
  match v with
  | .kick => { vs with kick := voiceTrigger kickTemplate P val vs.kick }
  | .snare => { vs with snare := voiceTrigger snareTemplate P val vs.snare }
  | .cymbal => { vs with cymbal := voiceTrigger cymbalTemplate P val vs.cymbal }
  | .hihat => { vs with hihat := voiceTrigger hihatTemplate P val vs.hihat }
  | .tom => { vs with tom := voiceTrigger tomTemplate P val vs.tom }
  | .conga => { vs with conga := voiceTrigger congaTemplate P val vs.conga }
  | .rimshot => { vs with rimshot := voiceTrigger rimshotTemplate P val vs.rimshot }
  | .maracas => { vs with maracas := voiceTrigger maracasTemplate P val vs.maracas }
  | .clap => { vs with clap := voiceTrigger clapTemplate P val vs.clap }
  | .cowbell => { vs with cowbell := voiceTrigger cowbellTemplate P val vs.cowbell }

/-- The SETP effect on the voice records, register by register (rules R54, R318). -/
def writeReg (P : Params) (r : Reg) (val : F32) (vs : Voices) : Voices :=
  match r with
  | .kickDecay => { vs with kick := vs.kick.setDecay P val }
  | .kickTone => { vs with kick := vs.kick.setTone P val }
  | .snareTone => { vs with snare := vs.snare.setTone P val }
  | .snareSnappy => { vs with snare := vs.snare.setSnappy P val }
  | .cymbalDecay => { vs with cymbal := vs.cymbal.setDecay P val }
  | .cymbalTone => { vs with cymbal := vs.cymbal.setTone P val }
  | .hihatOpen => { vs with hihat := vs.hihat.setOpen P val }
  | .tomTuning => { vs with tom := tomSetTuning P vs.tom val }
  | .congaTuning => { vs with conga := congaSetTuning P vs.conga val }

/-- TRIG's effect (rule R312). -/
def State.trigger (P : Params) (v : Voice) (val : F32) (s : State) : State :=
  { s with voices := triggerVoice P v val s.voices }

/-- SETP's effect (rule R318). -/
def State.writeReg (P : Params) (r : Reg) (val : F32) (s : State) : State :=
  { s with voices := Sys2Proof.Machine.writeReg P r val s.voices }

/-- SETMV's effect (rule R316). -/
def State.setMaster (P : Params) (val : F32) (s : State) : State :=
  { s with mixer := { s.mixer with master := P.clamp val F32.zero F32.one } }

/-- The runs of the ten voices that the next tick makes (rule R321). -/
def State.runs (P : Params) (s : State) : Tick := runVoices P s.mixer.rng s.voices

/-- SAMPLE's effect on the block (rules R319, R321): the ten voices run, and `M.mix <- MIX()`. -/
def State.tick (P : Params) (s : State) : State :=
  let t := s.runs P
  { s with mixer := { s.mixer with mix := t.mix P s.mixer.master, rng := t.rng }, voices := t.voices }

/-- The word SAMPLE responds with: `sext_32(QUANT(M.mix))` (rules R319, R322). -/
def sampleWord (P : Params) (mix : F32) : Word := (quantise P mix).signExtend 32

end Sys2Proof.Machine
end

