-- ==== Sys2Proof/Machine/Commands.lean ====
section
/-!
DEFINITION. The meanings of the seven commands (rules R311 to R320), one definition each.  Where a command reads the
parameters of rule R7, its effect is said first for any parameters (`trigIn`, `setpIn`, `setmvIn`, `sampleIn`), and the
meaning that `exec` calls takes the reference values (log entry 1).  A command whose operands the decoder would reject
is rejected (rule R314).
-/

namespace Sys2Proof.Machine

/-- NOP (rule R311). -/
def execNop (s : State) : Host.Outcome State Fault Refusal := .next (s.respond .control 0#32)

/-- TRIG with the parameters `P` (rule R312). -/
def trigIn (P : Params) (v : Voice) (val : F32) (s : State) : Host.Outcome State Fault Refusal :=
  if val.isFinite then
    .next ((s.trigger P v val).respond .control 0#32)
  else .next (s.reject .control)

/-- TRIG (rule R312). -/
def execTrig (v : Voice) (val : F32) (s : State) : Host.Outcome State Fault Refusal := trigIn reference v val s

/-- SETP with the parameters `P` (rule R318). -/
def setpIn (P : Params) (v : Voice) (p : Param) (val : F32) (s : State) : Host.Outcome State Fault Refusal :=
  match regOf v p with
  | some r =>
    if val.isFinite then
      .next ((s.writeReg P r val).respond .control 0#32)
    else .next (s.reject .control)
  | none => .next (s.reject .control)

/-- SETP (rule R318). -/
def execSetp (v : Voice) (p : Param) (val : F32) (s : State) : Host.Outcome State Fault Refusal :=
  setpIn reference v p val s

/-- SETMV with the parameters `P` (rule R316). -/
def setmvIn (P : Params) (val : F32) (s : State) : Host.Outcome State Fault Refusal :=
  if val.isFinite then
    .next ((s.setMaster P val).respond .control 0#32)
  else .next (s.reject .control)

/-- SETMV (rule R316). -/
def execSetmv (val : F32) (s : State) : Host.Outcome State Fault Refusal := setmvIn reference val s

/-- STATUS (rule R315): the word before the flag is cleared. -/
def execStatus (s : State) : Host.Outcome State Fault Refusal :=
  .next ((s.setErr false).respond .control (statusWord s))

/-- MIXRD (rule R320). -/
def execMixrd (s : State) : Host.Outcome State Fault Refusal := .next (s.respond .control s.mixer.mix.bits)

/-- SAMPLE with the parameters `P` (rule R319): one tick, and its sample on the audio port. -/
def sampleIn (P : Params) (s : State) : Host.Outcome State Fault Refusal :=
  .next ((s.tick P).respond .audio (sampleWord P (s.tick P).mixer.mix))

/-- SAMPLE (rule R319). -/
def execSample (s : State) : Host.Outcome State Fault Refusal := sampleIn reference s

end Sys2Proof.Machine
end

