-- ==== Sys2Proof/Machine/Dispatch.lean ====
section
/-! DEFINITION. The dispatch: one arm per command, each one direct call of its meaning. -/

namespace Sys2Proof.Machine

def exec (i : Instr) (s : State) : Host.Outcome State Fault Refusal :=
  match i with
  | .nop => Sys2Proof.Machine.execNop s
  | .trig v val => Sys2Proof.Machine.execTrig v val s
  | .setp v p val => Sys2Proof.Machine.execSetp v p val s
  | .setmv val => Sys2Proof.Machine.execSetmv val s
  | .status => Sys2Proof.Machine.execStatus s
  | .mixrd => Sys2Proof.Machine.execMixrd s
  | .sample => Sys2Proof.Machine.execSample s

end Sys2Proof.Machine
end

