-- ==== Sys2Proof/WellFormed.lean ====
section
/-!
DEFINITION. Which commands an encoding can carry: the checks (5) and (6) of rule R108.  Checks (1) to (4) concern
bits that the syntax does not have.
-/

namespace Sys2Proof

/-- A SETP's pair names a register, and a data word that is read is finite (rules R107, R108, R317). -/
def Instr.wellFormed : Instr → Bool
  | .nop => true
  | .trig _ val => val.isFinite
  | .setp voice param val => (regOf voice param).isSome && val.isFinite
  | .setmv val => val.isFinite
  | .status => true
  | .mixrd => true
  | .sample => true

end Sys2Proof
end

