-- ==== Sys2Proof/Decode.lean ====
section
/-!
DEFINITION. The decoder of a command (rules R101 to R109), total on every pair of words and rejecting by name, the byte
form of rule R82, and the encoder written from the same tables.
-/

namespace Sys2Proof

/-- Why a command is rejected: the six reasons of rule R108, and the byte form's own. -/
inductive Rejection
  /-- (1) the operation value is reserved (rule R106) -/
  | reservedOp
  /-- (1) the operation is not one of its port's (rule R100) -/
  | wrongPort
  /-- (2) RSV is not 0 -/
  | reservedBits
  /-- (3) a field that must be 0 is not -/
  | mustBeZero
  /-- (4) TRIG names a voice above 9 -/
  | noSuchVoice
  /-- (5) SETP names a pair that is no register (rule R107) -/
  | noSuchRegister
  /-- (6) the data word is infinite or a NaN (rule R317) -/
  | notFinite
  /-- fewer than eight bytes: no command at all (rule R83); it arises in the byte form only -/
  | incomplete
deriving DecidableEq, Repr

/-- The operations of rule R106. -/
inductive Op
  | nop | trig | setp | setmv | status | mixrd | sample
deriving DecidableEq, Repr

def Op.all : List Op := [.nop, .trig, .setp, .setmv, .status, .mixrd, .sample]

/-- The value of the OP field (rule R106). -/
def Op.code : Op → BitVec 4
  | .nop => 0x0
  | .trig => 0x1
  | .setp => 0x2
  | .setmv => 0x3
  | .status => 0x4
  | .mixrd => 0x5
  | .sample => 0x8

/-- The operation of an OP value; 0x6, 0x7 and 0x9 to 0xF are reserved (rules R106, R109). -/
def Op.ofCode (c : BitVec 4) : Option Op := Op.all.find? (fun o => o.code == c)

/-- The port that accepts an operation (rules R100, R106). -/
def Op.port : Op → Port
  | .nop => .control
  | .trig => .control
  | .setp => .control
  | .setmv => .control
  | .status => .control
  | .mixrd => .control
  | .sample => .audio

/-- Rule R106's VOICE column says "must be 0". -/
def Op.voiceMustBeZero : Op → Bool
  | .trig => false
  | .setp => false
  | _ => true

/-- Rule R106's PARAM column says "must be 0". -/
def Op.paramMustBeZero : Op → Bool
  | .setp => false
  | _ => true

/-- CW[31:28] (rule R102). -/
def opField (cw : Word) : BitVec 4 := cw.extractLsb' 28 4

/-- CW[27:24] (rule R102). -/
def voiceField (cw : Word) : BitVec 4 := cw.extractLsb' 24 4

/-- CW[23:20] (rule R102). -/
def paramField (cw : Word) : BitVec 4 := cw.extractLsb' 20 4

/-- CW[19:0] (rule R102). -/
def rsvField (cw : Word) : BitVec 20 := cw.extractLsb' 0 20

/-- The last check of rule R108, for an operation that reads its data word. -/
def withFinite (dw : Word) (i : F32 → Instr) : Except Rejection Instr :=
  if (F32.mk dw).isFinite then .ok (i ⟨dw⟩) else .error .notFinite

/-- Checks (4) to (6) of rule R108, and the operands of an accepted operation. -/
def decodeOperands (op : Op) (cw dw : Word) : Except Rejection Instr :=
  match op with
  | .nop => .ok .nop
  | .trig =>
    match Voice.ofCode (voiceField cw) with
    | none => .error .noSuchVoice
    | some v => withFinite dw (.trig v)
  | .setp =>
    match Voice.ofCode (voiceField cw), Param.ofCode (paramField cw) with
    | some v, some p => if (regOf v p).isSome then withFinite dw (.setp v p) else .error .noSuchRegister
    | _, _ => .error .noSuchRegister
  | .setmv => withFinite dw .setmv
  | .status => .ok .status
  | .mixrd => .ok .mixrd
  | .sample => .ok .sample

/-- The decoder (rule R108): the checks in the rule's order, the first that applies rejecting. -/
def decode (port : Port) (cw dw : Word) : Except Rejection Instr :=
  match Op.ofCode (opField cw) with
  | none => .error .reservedOp
  | some op =>
    if op.port ≠ port then .error .wrongPort
    else if rsvField cw ≠ 0 then .error .reservedBits
    else if (op.voiceMustBeZero ∧ voiceField cw ≠ 0) ∨ (op.paramMustBeZero ∧ paramField cw ≠ 0) then
      .error .mustBeZero
    else decodeOperands op cw dw

/-! ### The byte form (rule R82) -/

/-- A word's bytes, the least significant first (rule R82). -/
def bytesOfWord (w : Word) : List Byte :=
  [w.extractLsb' 0 8, w.extractLsb' 8 8, w.extractLsb' 16 8, w.extractLsb' 24 8]

/-- The word of four bytes, the least significant first (rule R82). -/
def wordOfBytes (b0 b1 b2 b3 : Byte) : Word := (b3 ++ b2 ++ b1 ++ b0 : BitVec (8 + 8 + 8 + 8))

/-- The decoder on a byte-wide path: command word, then data word (rules R82, R83); the rest of the bytes is answered. -/
def decodeBytes (port : Port) : List Byte → Except Rejection (Instr × List Byte)
  | a0 :: a1 :: a2 :: a3 :: d0 :: d1 :: d2 :: d3 :: rest =>
    match decode port (wordOfBytes a0 a1 a2 a3) (wordOfBytes d0 d1 d2 d3) with
    | .ok i => .ok (i, rest)
    | .error r => .error r
  | _ => .error .incomplete

/-! ### The encoder -/

/-- A command word of its fields, RSV being 0 (rule R102). -/
def commandWord (op voice param : BitVec 4) : Word := (op ++ voice ++ param ++ 0#20 : BitVec (4 + 4 + 4 + 20))

/-- A command's operation. -/
def Instr.op : Instr → Op
  | .nop => .nop
  | .trig _ _ => .trig
  | .setp _ _ _ => .setp
  | .setmv _ => .setmv
  | .status => .status
  | .mixrd => .mixrd
  | .sample => .sample

/-- The command word of a command (rules R102, R106). -/
def Instr.cw (i : Instr) : Word :=
  match i with
  | .trig v _ => commandWord i.op.code v.code 0
  | .setp v p _ => commandWord i.op.code v.code p.code
  | _ => commandWord i.op.code 0 0

/-- The data word of a command; a command that ignores it is encoded with 0 (rules R103, R104). -/
def Instr.dw : Instr → Word
  | .trig _ val => val.bits
  | .setp _ _ val => val.bits
  | .setmv val => val.bits
  | _ => 0

/-- Whether a command reads its data word (rule R104). -/
def Instr.readsData : Instr → Bool
  | .trig _ _ => true
  | .setp _ _ _ => true
  | .setmv _ => true
  | _ => false

/-- The words (CW, DW) of a command (rules R101 to R107). -/
def encode (i : Instr) : Word × Word := (i.cw, i.dw)

/-! ### The opcode table's words -/

/-- The port on which the operation of a command word is accepted; `control` for a reserved one. -/
def portOfWord (cw : Word) : Port :=
  match Op.ofCode (opField cw) with
  | some op => op.port
  | none => .control

/-- The command and data word of an instruction given as one number, the bits from `nbits` on being 0 (rule R101). -/
def tableWords (nbits w : Nat) : Word × Word :=
  let x := w % 2 ^ nbits
  (BitVec.ofNat 32 x, BitVec.ofNat 32 (x / 2 ^ 32))

/-- The command the decoder reads from an opcode-table word: its two words are laid out as bytes (rule R82) and given
to the decoder of the port that the operation belongs to. -/
def decodeTableWord (nbits w : Nat) : Option Instr :=
  let ws := tableWords nbits w
  match decodeBytes (portOfWord ws.1) (bytesOfWord ws.1 ++ bytesOfWord ws.2) with
  | .ok (i, _) => some i
  | .error _ => none

end Sys2Proof
end

