-- ==== Sys2Proof/Machine/Fetch.lean ====
section
/-!
DEFINITION. What the block takes next: the first of the things that reached it.  A command is decoded and is either run
or rejected (rules R108, R310, R314); RESET is a step of its own (rule R382); with nothing to take the block holds its
state (rules R362, R381).
-/

namespace Sys2Proof.Machine

/-- What becomes of the next input: a command to run in a state, or a state already reached. -/
inductive Fetched
  | run (i : Instr) (s : State)
  | done (s : State)
deriving DecidableEq, Repr

/-- The effect of one input on the state it was taken from (rules R108, R314, R380). -/
def accept (P : Params) (x : Input) (s : State) : Fetched :=
  match x with
  | .reset => .done (s.resetBlock P)
  | .command port cw dw =>
    match decode port cw dw with
    | .ok i => .run i s
    | .error _ => .done (s.reject port)

/-- The next input, taken (rules R85, R310). -/
def fetch (P : Params) (s : State) : Fetched :=
  match s.inbox with
  | [] => .done s
  | x :: rest => accept P x (s.awaiting rest)

/-- An opcode-table word as a command on the port its operation belongs to (log entry 10). -/
def tableInput (nbits w : Nat) : Input :=
  .command (portOfWord (tableWords nbits w).1) (tableWords nbits w).1 (tableWords nbits w).2

end Sys2Proof.Machine
end

