-- ==== Sys2Proof/Machine/Step.lean ====
section
/-! DEFINITION. One step of the machine, and the state in which a given word is the next command. -/

namespace Sys2Proof.Machine

/-- One step at the reference values of the parameters (rules R6, R7, R85, R310, R382): the next input is taken, and a command it carries is run. -/
def step (s : State) : Host.Outcome State Fault Refusal :=
  match fetch reference s with
  | .run i t => exec i t
  | .done t => .next t

/-- The state in which an opcode-table word is the next command the block takes (log entry 10). -/
def State.withFetchWord (s : State) (nbits w : Nat) : State := { s with inbox := tableInput nbits w :: s.inbox }

end Sys2Proof.Machine
end

