-- ==== Sys2Proof/Machine/Instance.lean ====
section
/-!
DEFINITION. The step relation at any values of the parameters of rule R7 (rule R31).  `exec`, `step` and `State.reset`
are its case at the reference values (log entry 1).
-/

namespace Sys2Proof.Machine

/-- What a command does with the parameters `P`, one meaning per command. -/
def execIn (P : Params) (i : Instr) (s : State) : Host.Outcome State Fault Refusal :=
  match i with
  | .nop => execNop s
  | .trig v val => trigIn P v val s
  | .setp v p val => setpIn P v p val s
  | .setmv val => setmvIn P val s
  | .status => execStatus s
  | .mixrd => execMixrd s
  | .sample => sampleIn P s

/-- One step with the parameters `P` (rules R6, R31, R85, R310, R382). -/
def stepIn (P : Params) (s : State) : Host.Outcome State Fault Refusal :=
  match fetch P s with
  | .run i t => execIn P i t
  | .done t => .next t

end Sys2Proof.Machine

namespace Sys2Proof

/-- The block at a legal choice of its parameters (rules R7, R31, R384). -/
def Instance.block (B : Instance) : Host.Core :=
  { State := Machine.State, Fault := Machine.Fault, Refusal := Machine.Refusal
    step := Machine.stepIn B.params, reset := Machine.State.resetOf B.params }

end Sys2Proof
end

