-- ==== Sys2Proof/Safety.lean ====
section
/-!
DEFINITION. The terms that claims about the machine are made in: per-voice views of the state, ranges, and the
invariants that the rules state.
-/

namespace Sys2Proof

/-! ### Views -/

/-- `V[v].isPlaying`. -/
def Voices.playing (vs : Voices) : Voice → Bool
  | .kick => vs.kick.isPlaying
  | .snare => vs.snare.isPlaying
  | .cymbal => vs.cymbal.isPlaying
  | .hihat => vs.hihat.isPlaying
  | .tom => vs.tom.isPlaying
  | .conga => vs.conga.isPlaying
  | .rimshot => vs.rimshot.isPlaying
  | .maracas => vs.maracas.isPlaying
  | .clap => vs.clap.isPlaying
  | .cowbell => vs.cowbell.isPlaying

/-- `V[v].vel`. -/
def Voices.velocity (vs : Voices) : Voice → F32
  | .kick => vs.kick.vel
  | .snare => vs.snare.vel
  | .cymbal => vs.cymbal.vel
  | .hihat => vs.hihat.vel
  | .tom => vs.tom.vel
  | .conga => vs.conga.vel
  | .rimshot => vs.rimshot.vel
  | .maracas => vs.maracas.vel
  | .clap => vs.clap.vel
  | .cowbell => vs.cowbell.vel

/-- Two states of the voices hold the same record for voice `v`. -/
def Voices.agreeOn (a b : Voices) : Voice → Prop
  | .kick => a.kick = b.kick
  | .snare => a.snare = b.snare
  | .cymbal => a.cymbal = b.cymbal
  | .hihat => a.hihat = b.hihat
  | .tom => a.tom = b.tom
  | .conga => a.conga = b.conga
  | .rimshot => a.rimshot = b.rimshot
  | .maracas => a.maracas = b.maracas
  | .clap => a.clap = b.clap
  | .cowbell => a.cowbell = b.cowbell

/-- The envelopes of voice `v`, in the order of its rule (rules R41 to R50). -/
def Voices.envs (vs : Voices) : Voice → List Env
  | .kick => [vs.kick.ampEnv, vs.kick.pitchEnv]
  | .snare => [vs.snare.toneEnv, vs.snare.snapEnv]
  | .cymbal => [vs.cymbal.env]
  | .hihat => [vs.hihat.env]
  | .tom => [vs.tom.toneEnv, vs.tom.noiseEnv]
  | .conga => [vs.conga.toneEnv, vs.conga.noiseEnv]
  | .rimshot => [vs.rimshot.env]
  | .maracas => [vs.maracas.env]
  | .clap => [vs.clap.sawEnv, vs.clap.revEnv]
  | .cowbell => [vs.cowbell.env]

/-- The controlling envelopes of voice `v` (rules R41 to R50): every envelope but the Kick's `pitchEnv`. -/
def Voices.controlling (vs : Voices) : Voice → List Env
  | .kick => [vs.kick.ampEnv]
  | v => vs.envs v

def Bank.oscs (b : Bank) : List Osc := [b.osc0, b.osc1, b.osc2, b.osc3, b.osc4, b.osc5]

/-- The oscillators of voice `v`. -/
def Voices.oscs (vs : Voices) : Voice → List Osc
  | .kick => [vs.kick.sub]
  | .snare => [vs.snare.noise]
  | .cymbal => vs.cymbal.osc.oscs
  | .hihat => vs.hihat.osc.oscs
  | .tom => [vs.tom.pinkOsc]
  | .conga => [vs.conga.pinkOsc]
  | .rimshot => [vs.rimshot.inh.o1, vs.rimshot.inh.o2]
  | .maracas => [vs.maracas.noise]
  | .clap => [vs.clap.noise]
  | .cowbell => [vs.cowbell.o1, vs.cowbell.o2]

/-- The bridged-T oscillators of voice `v`. -/
def Voices.bts (vs : Voices) : Voice → List Bt
  | .kick => [vs.kick.bt]
  | .snare => [vs.snare.bt1, vs.snare.bt2]
  | .tom => [vs.tom.bt]
  | .conga => [vs.conga.bt]
  | _ => []

/-- The filters of voice `v`. -/
def Voices.flts (vs : Voices) : Voice → List Flt
  | .kick => [vs.kick.lp]
  | .snare => [vs.snare.hp]
  | .cymbal => [vs.cymbal.bp1, vs.cymbal.bp2, vs.cymbal.hp]
  | .hihat => [vs.hihat.bp, vs.hihat.hp]
  | .tom => [vs.tom.lp]
  | .conga => [vs.conga.lp]
  | .rimshot => [vs.rimshot.hp]
  | .maracas => [vs.maracas.hp]
  | .clap => [vs.clap.bp]
  | .cowbell => [vs.cowbell.bp, vs.cowbell.hp]

/-- The control registers of the voices (rule R54). -/
structure Registers where
  kickDecay : F32
  kickTone : F32
  snareTone : F32
  snareSnappy : F32
  cymbalDecay : F32
  cymbalTone : F32
  hihatOpen : Bool
  tomTuning : F32
  congaTuning : F32
deriving DecidableEq, Repr

def Voices.registers (vs : Voices) : Registers :=
  ⟨vs.kick.decay, vs.kick.tone, vs.snare.tone, vs.snare.snappy, vs.cymbal.decay, vs.cymbal.tone, vs.hihat.opened,
    vs.tom.tuning, vs.conga.tuning⟩

/-- The voice that owns a control register (rule R54). -/
def Reg.voice : Reg → Voice
  | .kickDecay => .kick
  | .kickTone => .kick
  | .snareTone => .snare
  | .snareSnappy => .snare
  | .cymbalDecay => .cymbal
  | .cymbalTone => .cymbal
  | .hihatOpen => .hihat
  | .tomTuning => .tom
  | .congaTuning => .conga

/-- An envelope after a Sounding tick of its voice; `completed` says that the voice completed on it (rules R164, R210). -/
def Env.aged (completed : Bool) (e : Env) : Env :=
  { e with age := satInc e.age, isActive := e.isActive && !completed }

/-- ENV_DONE of an envelope whose age has advanced (rules R162, R211). -/
def Env.doneNext (P : Params) (e : Env) : Bool := Env.done P { e with age := satInc e.age }

/-- 1 for a Sounding voice, 0 for an Idle one: the noise draws a noise voice makes in a tick (rule R321). -/
def drawsOf (playing : Bool) : Nat := if playing then 1 else 0

/-- The noise draws of one tick (rule R321). -/
def Voices.draws (vs : Voices) : Nat :=
  drawsOf vs.snare.isPlaying + drawsOf vs.tom.isPlaying + drawsOf vs.conga.isPlaying + drawsOf vs.maracas.isPlaying
    + drawsOf vs.clap.isPlaying

/-- `lo <= x <= hi`, which no NaN satisfies. -/
abbrev F32.within (lo hi x : F32) : Prop := F32.le lo x = true ∧ F32.le x hi = true

/-- A value in a control register's legal range (rule R54). -/
abbrev Range.holds (r : Range) (x : F32) : Prop := F32.within r.lo r.hi x

/-! ### What no command writes (rule R313) -/

/-- The elements of a voice's processor, oscillators, filters and envelopes that no command writes. -/
structure Configured where
  procs : List Proc
  /-- every `OSC.amp`, `OSC.freq` and `OSC.inc` -/
  oscs : List (F32 × F32 × F32)
  /-- every filter's `q` -/
  qs : List F32
  /-- `cutoff` and `alpha` of the filters no register reaches -/
  cutoffs : List (F32 × F32)
  /-- `A`, `R` and `S` of every envelope -/
  shapes : List (F32 × F32 × F32)
  /-- `D` of the envelopes no register reaches -/
  decays : List F32
  /-- frequency, decay time and decay rate of the bridged-T oscillators no register and no graph rewrites -/
  bts : List (F32 × F32 × F32)
  /-- `INH.mix` -/
  mixRatio : F32
deriving DecidableEq, Repr

def Osc.configured (o : Osc) : F32 × F32 × F32 := (o.amp, o.freq, o.inc)

def Bank.configured (b : Bank) : List (F32 × F32 × F32) :=
  [b.osc0.configured, b.osc1.configured, b.osc2.configured, b.osc3.configured, b.osc4.configured, b.osc5.configured]

def Env.shape (e : Env) : F32 × F32 × F32 := (e.attackMs, e.releaseMs, e.sustain)

/-- Every element of rule R313's list, over the ten voices. -/
def Voices.configured (vs : Voices) : Configured where
  procs := [vs.kick.proc, vs.snare.proc, vs.cymbal.proc, vs.hihat.proc, vs.tom.proc, vs.conga.proc, vs.rimshot.proc,
    vs.maracas.proc, vs.clap.proc, vs.cowbell.proc]
  oscs := [vs.kick.sub.configured, vs.snare.noise.configured, vs.tom.pinkOsc.configured, vs.conga.pinkOsc.configured,
      vs.rimshot.inh.o1.configured, vs.rimshot.inh.o2.configured, vs.maracas.noise.configured,
      vs.clap.noise.configured, vs.cowbell.o1.configured, vs.cowbell.o2.configured]
    ++ vs.cymbal.osc.configured ++ vs.hihat.osc.configured
  qs := [vs.kick.lp.q, vs.snare.hp.q, vs.cymbal.bp1.q, vs.cymbal.bp2.q, vs.cymbal.hp.q, vs.hihat.bp.q, vs.hihat.hp.q,
    vs.tom.lp.q, vs.conga.lp.q, vs.rimshot.hp.q, vs.maracas.hp.q, vs.clap.bp.q, vs.cowbell.bp.q, vs.cowbell.hp.q]
  cutoffs := [(vs.snare.hp.cutoff, vs.snare.hp.alpha), (vs.cymbal.hp.cutoff, vs.cymbal.hp.alpha),
    (vs.hihat.bp.cutoff, vs.hihat.bp.alpha), (vs.hihat.hp.cutoff, vs.hihat.hp.alpha),
    (vs.tom.lp.cutoff, vs.tom.lp.alpha), (vs.conga.lp.cutoff, vs.conga.lp.alpha),
    (vs.rimshot.hp.cutoff, vs.rimshot.hp.alpha), (vs.maracas.hp.cutoff, vs.maracas.hp.alpha),
    (vs.clap.bp.cutoff, vs.clap.bp.alpha), (vs.cowbell.bp.cutoff, vs.cowbell.bp.alpha),
    (vs.cowbell.hp.cutoff, vs.cowbell.hp.alpha)]
  shapes := [vs.kick.ampEnv.shape, vs.kick.pitchEnv.shape, vs.snare.toneEnv.shape, vs.snare.snapEnv.shape,
    vs.cymbal.env.shape, vs.hihat.env.shape, vs.tom.toneEnv.shape, vs.tom.noiseEnv.shape, vs.conga.toneEnv.shape,
    vs.conga.noiseEnv.shape, vs.rimshot.env.shape, vs.maracas.env.shape, vs.clap.sawEnv.shape, vs.clap.revEnv.shape,
    vs.cowbell.env.shape]
  decays := [vs.kick.pitchEnv.decayMs, vs.snare.toneEnv.decayMs, vs.tom.toneEnv.decayMs, vs.tom.noiseEnv.decayMs,
    vs.conga.toneEnv.decayMs, vs.conga.noiseEnv.decayMs, vs.rimshot.env.decayMs, vs.maracas.env.decayMs,
    vs.clap.sawEnv.decayMs, vs.clap.revEnv.decayMs, vs.cowbell.env.decayMs]
  bts := [(vs.snare.bt1.freq, vs.snare.bt1.decayMs, vs.snare.bt1.decayRate),
    (vs.snare.bt2.freq, vs.snare.bt2.decayMs, vs.snare.bt2.decayRate)]
  mixRatio := vs.rimshot.inh.mix

/-! ### Invariant: the registers hold legal values (rules R54, R312, R316) -/

/-- Every control register, and every latched velocity, is in its legal range. -/
abbrev Voices.registersLegal (vs : Voices) : Prop :=
  (referenceCfg.kickDecay.holds vs.kick.decay ∧ referenceCfg.kickTone.holds vs.kick.tone
    ∧ referenceCfg.snareTone.holds vs.snare.tone ∧ referenceCfg.snareSnappy.holds vs.snare.snappy
    ∧ referenceCfg.cymbalDecay.holds vs.cymbal.decay ∧ referenceCfg.cymbalTone.holds vs.cymbal.tone
    ∧ referenceCfg.tomTuning.holds vs.tom.tuning ∧ referenceCfg.congaTuning.holds vs.conga.tuning)
  ∧ (∀ v ∈ Voice.all, F32.within F32.zero F32.one (vs.velocity v))

/-! ### Invariant: derived elements are what their rules compute (rules R34, R57) -/

/-- `inc` is the increment of `freq` (rule R34). -/
abbrev Osc.derived (P : Params) (o : Osc) : Prop := o.inc = P.angle o.freq

abbrev Bank.derived (P : Params) (b : Bank) : Prop :=
  b.osc0.derived P ∧ b.osc1.derived P ∧ b.osc2.derived P ∧ b.osc3.derived P ∧ b.osc4.derived P ∧ b.osc5.derived P

/-- `decayRate` is the rate of `decayMs` (rule R35). -/
abbrev Bt.derived (P : Params) (b : Bt) : Prop := b.decayRate = P.decayRate b.decayMs

/-- The four coefficients are those of `cutoff` and `q` (rules R38, R180, R182). -/
abbrev Flt.derived (P : Params) (f : Flt) : Prop := f.alpha = P.onePole f.cutoff ∧ f = Flt.bpCoef P f

/-- A cutoff as FLT_SETCUTOFF clamps it (rule R180). -/
def Params.clampCutoff (P : Params) (fc : F32) : F32 := P.clamp fc P.cfg.filtMin P.freqMax

/-- Every derived element of every voice. -/
abbrev Voices.derived (P : Params) (vs : Voices) : Prop :=
  (vs.kick.bt.derived P ∧ vs.kick.sub.derived P ∧ vs.kick.lp.derived P
    ∧ vs.kick.ampEnv.decayMs = P.clampTime vs.kick.decay ∧ vs.kick.bt.decayMs = P.clampTime vs.kick.decay
    ∧ vs.kick.lp.cutoff = P.clampCutoff (P.kickCutoff vs.kick.tone))
  ∧ (vs.snare.bt1.derived P ∧ vs.snare.bt2.derived P ∧ vs.snare.noise.derived P ∧ vs.snare.hp.derived P
    ∧ vs.snare.snapEnv.decayMs = P.clampTime (P.snapDecay vs.snare.snappy))
  ∧ (vs.cymbal.osc.derived P ∧ vs.cymbal.bp1.derived P ∧ vs.cymbal.bp2.derived P ∧ vs.cymbal.hp.derived P
    ∧ vs.cymbal.env.decayMs = P.clampTime vs.cymbal.decay
    ∧ vs.cymbal.bp1.cutoff = P.clampCutoff (P.cymbalCentre1 vs.cymbal.tone)
    ∧ vs.cymbal.bp2.cutoff = P.clampCutoff (P.cymbalCentre2 vs.cymbal.tone))
  ∧ (vs.hihat.osc.derived P ∧ vs.hihat.bp.derived P ∧ vs.hihat.hp.derived P
    ∧ vs.hihat.env.decayMs = P.clampTime (P.hihatDecay vs.hihat.opened))
  ∧ (vs.tom.bt.derived P ∧ vs.tom.pinkOsc.derived P ∧ vs.tom.lp.derived P)
  ∧ (vs.conga.bt.derived P ∧ vs.conga.pinkOsc.derived P ∧ vs.conga.lp.derived P
    ∧ vs.conga.bt.freq = P.clampFreq vs.conga.tuning)
  ∧ (vs.rimshot.inh.o1.derived P ∧ vs.rimshot.inh.o2.derived P ∧ vs.rimshot.hp.derived P)
  ∧ (vs.maracas.noise.derived P ∧ vs.maracas.hp.derived P)
  ∧ (vs.clap.noise.derived P ∧ vs.clap.bp.derived P)
  ∧ (vs.cowbell.o1.derived P ∧ vs.cowbell.o2.derived P ∧ vs.cowbell.bp.derived P ∧ vs.cowbell.hp.derived P)

/-! ### Invariant: an envelope is active exactly while its voice sounds (rules R53, R210, R312) -/

/-- Every envelope's `isActive` is its voice's `isPlaying`; an Idle Clap has no burst left, and at most two are ever
left (rules R9, R211, R289). -/
abbrev Voices.flagsAgree (vs : Voices) : Prop :=
  (vs.kick.ampEnv.isActive = vs.kick.isPlaying ∧ vs.kick.pitchEnv.isActive = vs.kick.isPlaying)
  ∧ (vs.snare.toneEnv.isActive = vs.snare.isPlaying ∧ vs.snare.snapEnv.isActive = vs.snare.isPlaying)
  ∧ vs.cymbal.env.isActive = vs.cymbal.isPlaying ∧ vs.hihat.env.isActive = vs.hihat.isPlaying
  ∧ (vs.tom.toneEnv.isActive = vs.tom.isPlaying ∧ vs.tom.noiseEnv.isActive = vs.tom.isPlaying)
  ∧ (vs.conga.toneEnv.isActive = vs.conga.isPlaying ∧ vs.conga.noiseEnv.isActive = vs.conga.isPlaying)
  ∧ vs.rimshot.env.isActive = vs.rimshot.isPlaying ∧ vs.maracas.env.isActive = vs.maracas.isPlaying
  ∧ (vs.clap.sawEnv.isActive = vs.clap.isPlaying ∧ vs.clap.revEnv.isActive = vs.clap.isPlaying
    ∧ vs.clap.burstsLeft ≤ 2 ∧ (vs.clap.isPlaying = false → vs.clap.burstsLeft = 0))
  ∧ vs.cowbell.env.isActive = vs.cowbell.isPlaying

/-! ### Invariant: phases and ringing amplitudes stay in range (rules R34, R35, R141, R143) -/

/-- `+0.0 <= phase < TWO_PI_F` (rule R34). -/
abbrev F32.isPhase (x : F32) : Prop := F32.le F32.zero x = true ∧ F32.lt x F32.twoPi = true

/-- An angle per sample that a clamped frequency gives: between 0 and that of FREQ_MAX (rule R130). -/
abbrev F32.isIncrement (x : F32) : Prop := F32.within F32.zero (reference.angle reference.freqMax) x

/-- The oscillator's phase is in [0, 2 pi), and its increment is one of a clamped frequency. -/
abbrev Osc.phaseOk (o : Osc) : Prop := o.phase.isPhase ∧ o.inc.isIncrement

abbrev Bank.phaseOk (b : Bank) : Prop :=
  b.osc0.phaseOk ∧ b.osc1.phaseOk ∧ b.osc2.phaseOk ∧ b.osc3.phaseOk ∧ b.osc4.phaseOk ∧ b.osc5.phaseOk

/-- The bridged-T's frequency, phase, amplitude and decay rate are in range (rules R35, R141, R143). -/
abbrev Bt.ok (b : Bt) : Prop :=
  F32.within referenceCfg.freqMin reference.freqMax b.freq ∧ b.phase.isPhase ∧ F32.within F32.zero F32.one b.amp
    ∧ F32.within F32.zero F32.one b.decayRate

/-- Every phase and every ringing amplitude; the Kick's pitch envelope has its configured shape. -/
abbrev Voices.phasesOk (vs : Voices) : Prop :=
  (vs.kick.bt.ok ∧ vs.kick.sub.phaseOk ∧ vs.kick.pitchEnv.attackMs = referenceCfg.attMs
    ∧ vs.kick.pitchEnv.decayMs = referenceCfg.kickPitchDecay ∧ vs.kick.pitchEnv.sustain = referenceCfg.sustain)
  ∧ (vs.snare.bt1.ok ∧ vs.snare.bt2.ok ∧ vs.snare.noise.phaseOk)
  ∧ vs.cymbal.osc.phaseOk ∧ vs.hihat.osc.phaseOk
  ∧ (vs.tom.bt.ok ∧ vs.tom.pinkOsc.phaseOk ∧ referenceCfg.tomTuning.holds vs.tom.tuning)
  ∧ (vs.conga.bt.ok ∧ vs.conga.pinkOsc.phaseOk ∧ referenceCfg.congaTuning.holds vs.conga.tuning)
  ∧ (vs.rimshot.inh.o1.phaseOk ∧ vs.rimshot.inh.o2.phaseOk)
  ∧ vs.maracas.noise.phaseOk ∧ vs.clap.noise.phaseOk
  ∧ (vs.cowbell.o1.phaseOk ∧ vs.cowbell.o2.phaseOk)

end Sys2Proof

namespace Sys2Proof.Machine

/-- The port whose command an input is; none for RESET. -/
def Input.issuer : Input → Option Port
  | .command port _ _ => some port
  | .reset => none

/-- Rules R54, R312, R316: the control registers, the velocities and the master volume hold legal values. -/
abbrev State.registersLegal (s : State) : Prop :=
  s.voices.registersLegal ∧ F32.within F32.zero F32.one s.mixer.master

/-- Rules R34, R35, R38, R57: every derived element holds what its rule computes. -/
abbrev State.derived (s : State) : Prop := s.voices.derived reference

/-- Rules R53, R210, R312: the envelope flags agree with the voices' flags. -/
abbrev State.flagsAgree (s : State) : Prop := s.voices.flagsAgree

/-- Rules R34, R35, R141, R143: phases and ringing amplitudes are in range. -/
abbrev State.phasesOk (s : State) : Prop := s.voices.phasesOk

/-- Rule R52: the noise word is never 0. -/
abbrev State.noiseAlive (s : State) : Prop := s.mixer.rng ≠ 0

end Sys2Proof.Machine
end

