-- ==== Sys2Proof/Certificates/Slice0/Obligations.lean ====
section
/-!
DEFINITION. The statements for the provers, each a `Prop` about the machine, from the numbered rules of spec/.  Where a
statement runs `exec` or `step` it is about the reference values of rule R7's parameters; where it quantifies over
`P : Params`, with `execIn` or `stepIn`, or over a legal choice `B : Instance`, it holds for every value of them.
-/

open Sys2Proof Sys2Proof.Machine

/-! ### Encoding (rules R82, R100 to R112) -/

/-- Decoding the words of a well-formed command on its own port gives the command back (rules R102, R106, R108). -/
def Obligations.DecodeOfEncodeIsTheCommand : Prop :=
  ∀ i : Instr, i.wellFormed = true → decode i.port i.cw i.dw = .ok i

/-- Whatever the decoder accepts is a well-formed command on its own port, and its words are the ones decoded; the
data word is recovered where the command reads it (rules R100, R106, R108). -/
def Obligations.DecodedWordsEncodeBack : Prop :=
  ∀ (port : Port) (cw dw : Word) (i : Instr), decode port cw dw = .ok i →
    i.wellFormed = true ∧ i.port = port ∧ i.cw = cw ∧ (i.readsData = true → i.dw = dw)

/-- On a byte-wide path, the least significant byte first, the eight bytes of a well-formed command decode to it and
the bytes after them are left (rules R82, R83). -/
def Obligations.ByteFormCarriesTheCommand : Prop :=
  ∀ (i : Instr) (rest : List Byte), i.wellFormed = true →
    decodeBytes i.port (bytesOfWord i.cw ++ bytesOfWord i.dw ++ rest) = .ok (i, rest)

/-- NOP, STATUS, MIXRD and SAMPLE accept every data word; TRIG, SETP and SETMV reject a data word whose exponent field
is 0xFF and accept every other (rules R104, R317). -/
def Obligations.DataWordIsIgnoredOrMustBeFinite : Prop :=
  ∀ (i : Instr) (dw : Word), i.wellFormed = true →
    (i.readsData = false → decode i.port i.cw dw = .ok i)
    ∧ (i.readsData = true →
      (decode i.port i.cw dw = .error .notFinite ↔ dw.extractLsb' 23 8 = 0xFF#8)
      ∧ (dw.extractLsb' 23 8 ≠ 0xFF#8 → ∃ j, decode i.port i.cw dw = .ok j ∧ j.dw = dw))

/-- The words of rule R112 and of 95_test_vectors.md V1 decode as written there. -/
def Obligations.WorkedEncodingsDecode : Prop :=
  decode .control 0x00000000 0x12345678 = .ok .nop
  ∧ decode .control 0x10000000 0x3F000000 = .ok (.trig .kick ⟨0x3F000000⟩)
  ∧ decode .control 0x19000000 0x3F800000 = .ok (.trig .cowbell ⟨0x3F800000⟩)
  ∧ decode .control 0x20000000 0x44480000 = .ok (.setp .kick .decay ⟨0x44480000⟩)
  ∧ decode .control 0x25200000 0x43960000 = .ok (.setp .conga .tuning ⟨0x43960000⟩)
  ∧ decode .control 0x30000000 0x3F000000 = .ok (.setmv ⟨0x3F000000⟩)
  ∧ decode .control 0x40000000 0xFFFFFFFF = .ok .status
  ∧ decode .control 0x50000000 0x00000000 = .ok .mixrd
  ∧ decode .audio 0x80000000 0xDEADBEEF = .ok .sample
  ∧ decode .control 0x80000000 0 = .error .wrongPort
  ∧ decode .audio 0x10000000 0x3F800000 = .error .wrongPort
  ∧ decode .control 0x00000001 0 = .error .reservedBits
  ∧ decode .control 0x10100000 0x3F800000 = .error .mustBeZero
  ∧ decode .control 0x1A000000 0x3F800000 = .error .noSuchVoice
  ∧ decode .control 0x21000000 0x3F800000 = .error .noSuchRegister
  ∧ decode .control 0x2A000000 0x3F800000 = .error .noSuchRegister
  ∧ decode .control 0x30000000 0x7FC00000 = .error .notFinite
  ∧ decode .control 0x60000000 0 = .error .reservedOp

/-! ### The step (rules R6, R85, R310, R314, R350, R362, R380, R382) -/

/-- A step whose next input decodes to a command runs that command on the state without the input, at every value of
the parameters; `exec`, `step` and `State.reset` are the block at the reference values, which are a legal choice
(rules R7, R31, R310, R384). -/
def Obligations.StepRunsTheDecodedCommand : Prop :=
  (∀ (s : State) (port : Port) (cw dw : Word) (rest : List Input) (i : Instr),
    s.inbox = .command port cw dw :: rest → decode port cw dw = .ok i →
    step s = exec i { s with inbox := rest }
    ∧ ∀ P : Params, stepIn P s = execIn P i { s with inbox := rest })
  ∧ (∀ (i : Instr) (s : State), exec i s = execIn referenceInstance.params i s)
  ∧ (∀ s : State, step s = stepIn referenceInstance.params s)
  ∧ State.reset = State.resetOf referenceInstance.params

/-- A step whose next input does not decode sets the error flag, responds 0 to the issuing port, and changes nothing
else, at every value of the parameters (rule R314). -/
def Obligations.StepRejectsWhatDoesNotDecode : Prop :=
  ∀ (s : State) (port : Port) (cw dw : Word) (rest : List Input) (r : Rejection),
    s.inbox = .command port cw dw :: rest → decode port cw dw = .error r →
    let t := { s with
      mixer := { s.mixer with cmdErr := true }
      inbox := rest
      out := ⟨port, 0⟩ :: s.out }
    step s = .next t ∧ ∀ P : Params, stepIn P s = .next t

/-- RESET puts every element of the block into its reset value, whatever the block held, at every value of the
parameters (rules R380, R382); the two fields of the model's own stay (log entry 9). -/
def Obligations.StepResetsTheBlock : Prop :=
  ∀ (s : State) (rest : List Input), s.inbox = .reset :: rest →
    step s = .next { State.reset with inbox := rest, out := s.out }
    ∧ ∀ P : Params, stepIn P s = .next { State.resetOf P with inbox := rest, out := s.out }

/-- Every step gives a next state, so the block raises no exception of any kind, at any value of the parameters; with
nothing to take it holds its state (rules R350, R362). -/
def Obligations.EveryStepCompletes : Prop :=
  (∀ s : State, ∃ t, step s = .next t) ∧ (∀ s : State, s.inbox = [] → step s = .next s)
  ∧ ∀ P : Params, (∀ s : State, ∃ t, stepIn P s = .next t) ∧ (∀ s : State, s.inbox = [] → stepIn P s = .next s)

/-- Running as many steps as there are inputs takes all of them, and every command gets exactly one response, on the
port that issued it, in the order of the commands, at every legal choice of the parameters (rules R85, R100, R310). -/
def Obligations.EveryCommandIsAnswered : Prop :=
  ∀ s : State,
    let answered := fun t : State => t.inbox = []
      ∧ t.out.map Response.port = (s.inbox.filterMap Input.issuer).reverse ++ s.out.map Response.port
    (∃ t : State, Sys2Proof.core.run s.inbox.length s = .next t ∧ answered t)
    ∧ ∀ B : Instance, ∃ t : State, B.block.run s.inbox.length s = .next t ∧ answered t

/-! ### NOP, STATUS, MIXRD, SETMV (rules R311, R315, R316, R320) -/

/-- The word 0x00000000 with any data word is NOP, which changes no state of the block and responds 0; after RESET it
leaves the block at its reset values (rule R311). -/
def Obligations.NopChangesNothing : Prop :=
  (∀ dw : Word, decode .control 0x00000000 dw = .ok .nop)
  ∧ (∀ s : State, exec .nop s = .next { s with out := ⟨.control, 0⟩ :: s.out })
  ∧ (∀ dw : Word, step { State.reset with inbox := [.command .control 0x00000000 dw] }
      = .next { State.reset with out := [⟨.control, 0⟩] })

/-- The word 0x40000000 with any data word is STATUS, which responds the STATUS word, bit v the Sounding flag of voice
v, bit 16 the error flag before the read, every other bit 0; it clears the error flag and changes nothing else (rules
R55, R315). -/
def Obligations.StatusReadsAndClears : Prop :=
  (∀ dw : Word, decode .control 0x40000000 dw = .ok .status)
  ∧ ∀ s : State, ∃ w : Word,
    exec .status s = .next { s with
      mixer := { s.mixer with cmdErr := false }
      out := ⟨.control, w⟩ :: s.out }
    ∧ (∀ v : Voice, w.getLsbD v.code.toNat = s.voices.playing v)
    ∧ w.getLsbD 16 = s.mixer.cmdErr
    ∧ (∀ k : Nat, 10 ≤ k → k ≠ 16 → w.getLsbD k = false)

/-- MIXRD responds the bits of the last mixer output and changes nothing (rule R320); before the first SAMPLE after
RESET they are 0. -/
def Obligations.MixrdReturnsTheMixerOutput : Prop :=
  (∀ s : State, exec .mixrd s = .next { s with out := ⟨.control, s.mixer.mix.bits⟩ :: s.out })
  ∧ exec .mixrd State.reset = .next { State.reset with out := [⟨.control, 0⟩] }

/-- SETMV with a finite word stores it clamped to [0, 1] and changes nothing else; the stored value is in [0, 1], and
a word already in [0, 1] is stored as it is (rule R316). -/
def Obligations.SetmvStoresTheClampedVolume : Prop :=
  ∀ (val : F32) (s : State), val.isFinite = true → ∃ m : F32,
    exec (.setmv val) s = .next { s with
      mixer := { s.mixer with master := m }
      out := ⟨.control, 0⟩ :: s.out }
    ∧ F32.within F32.zero F32.one m
    ∧ (F32.within F32.zero F32.one val → m = val)
    ∧ (F32.lt val F32.zero = true → m = F32.zero)
    ∧ (F32.lt F32.one val = true → m = F32.one)

/-- A command that the decoder never gives (a pair that is no register, a data word that is not finite) is rejected by
its meaning too: only the error flag changes, and the response is 0 (rule R314; log entry 8). -/
def Obligations.IllFormedCommandsAreRejected : Prop :=
  ∀ (i : Instr) (s : State), i.wellFormed = false →
    exec i s = .next { s with
      mixer := { s.mixer with cmdErr := true }
      out := ⟨.control, 0⟩ :: s.out }

/-! ### TRIG (rules R210, R215, R221, R229, R235, R261, R271, R277, R283, R289, R297, R312) -/

/-- TRIG of any voice completes, restarts that voice and touches nothing else: it sets the voice Sounding at the
clamped velocity, restarts every envelope, oscillator and bridged-T of it, clears its filter and pink-noise memory
(`FRT` is true in the reference instance), and leaves its registers and configured constants (rule R312). -/
def Obligations.TrigRestartsTheVoice : Prop :=
  ∀ (v : Voice) (val : F32) (s : State), val.isFinite = true → ∃ t : State,
    exec (.trig v val) s = .next t
    ∧ t.mixer = s.mixer ∧ t.inbox = s.inbox ∧ t.out = ⟨.control, 0⟩ :: s.out
    ∧ (∀ w : Voice, w ≠ v → t.voices.agreeOn s.voices w)
    ∧ t.voices.playing v = true
    ∧ t.voices.velocity v = reference.clamp val F32.zero F32.one
    ∧ t.voices.envs v = (s.voices.envs v).map (fun e => { e with age := 0, isActive := true })
    ∧ t.voices.oscs v = (s.voices.oscs v).map (fun o => { o with phase := F32.zero, pink := F32.zero })
    ∧ t.voices.flts v
        = (s.voices.flts v).map (fun f => { f with x1 := F32.zero, x2 := F32.zero, y1 := F32.zero, y2 := F32.zero })
    ∧ (v ≠ .tom → v ≠ .conga → t.voices.bts v
        = (s.voices.bts v).map (fun b => { b with amp := F32.one, phase := F32.zero, active := true }))
    ∧ t.voices.registers = s.voices.registers
    ∧ t.voices.configured = s.voices.configured

/-- The steps TRIG takes in one voice only: Tom and Conga return to the tuning's frequency, and the Clap's three-burst
sequence starts (rules R261, R271, R289). -/
def Obligations.TrigOwnSteps : Prop :=
  ∀ (val : F32) (s : State), val.isFinite = true →
    (∃ t, exec (.trig .tom val) s = .next t ∧ t.voices.tom.bt = { s.voices.tom.bt with
      freq := reference.clamp s.voices.tom.tuning (F32.lit 1 0) reference.freqMax
      amp := F32.one, phase := F32.zero, active := true })
    ∧ (∃ t, exec (.trig .conga val) s = .next t ∧ t.voices.conga.bt = { s.voices.conga.bt with
      freq := reference.clamp s.voices.conga.tuning (F32.lit 1 0) reference.freqMax
      amp := F32.one, phase := F32.zero, active := true })
    ∧ (∃ t, exec (.trig .clap val) s = .next t ∧ t.voices.clap.burstsLeft = 2 ∧ t.voices.clap.burstAge = 0)

/-- For every choice of the parameters, TRIG completes, changes the voice records only as `triggerVoice` says, and
zeroes the delay registers of its voice's filters and its pink-noise memory exactly when `FRT` of the voice is true; the
phases restart in either case (rules R140, R186, R312). -/
def Obligations.FilterMemoryFollowsFrt : Prop :=
  ∀ (P : Params) (v : Voice) (val : F32) (s : State), val.isFinite = true → ∃ t : State,
    execIn P (.trig v val) s = .next t ∧ t.voices = triggerVoice P v val s.voices
    ∧ (P.frt v = true →
      t.voices.flts v
        = (s.voices.flts v).map (fun f => { f with x1 := F32.zero, x2 := F32.zero, y1 := F32.zero, y2 := F32.zero })
      ∧ t.voices.oscs v = (s.voices.oscs v).map (fun o => { o with phase := F32.zero, pink := F32.zero }))
    ∧ (P.frt v = false →
      t.voices.flts v = s.voices.flts v
      ∧ t.voices.oscs v = (s.voices.oscs v).map (fun o => { o with phase := F32.zero }))

/-! ### SETP (rules R213, R222, R230, R236, R264, R272, R318) -/

/-- SETP kick: DECAY writes the register, the amplitude envelope's decay and the bridged-T's decay; TONE writes the
register and the low-pass cutoff 100 + 900 tone; nothing else changes (rule R213). -/
def Obligations.SetpKick : Prop :=
  ∀ (val : F32) (s : State), val.isFinite = true →
    (let d := reference.clamp val (F32.lit 300 0) (F32.lit 1200 0)
     let d' := reference.max d (F32.lit 1 1)
     exec (.setp .kick .decay val) s = .next { s with
      voices := { s.voices with kick := { s.voices.kick with
        decay := d
        ampEnv := { s.voices.kick.ampEnv with decayMs := d' }
        bt := { s.voices.kick.bt with
          decayMs := d'
          decayRate := reference.div (F32.lit 1000 0) (reference.mul d' (F32.lit 32768 0)) } } }
      out := ⟨.control, 0⟩ :: s.out })
    ∧ (let t := reference.clamp val (F32.lit 0 0) (F32.lit 1 0)
       exec (.setp .kick .tone val) s = .next { s with
        voices := { s.voices with kick := { s.voices.kick with
          tone := t
          lp := s.voices.kick.lp.setCutoff reference (reference.add (F32.lit 100 0)
            (reference.mul t (reference.sub (F32.lit 1000 0) (F32.lit 100 0)))) } }
        out := ⟨.control, 0⟩ :: s.out })

/-- SETP snare, by the words 0x21100000 and 0x21300000: TONE writes the register only; SNAPPY writes the register
and the noise envelope's decay 50 + 250 snappy; the rule's two examples (rule R222). -/
def Obligations.SetpSnare : Prop :=
  (∀ (val : F32) (s : State), val.isFinite = true →
    decode .control 0x21100000 val.bits = .ok (.setp .snare .tone val)
    ∧ decode .control 0x21300000 val.bits = .ok (.setp .snare .snappy val)
    ∧ (let t := reference.clamp val (F32.lit 0 0) (F32.lit 1 0)
     exec (.setp .snare .tone val) s = .next { s with
      voices := { s.voices with snare := { s.voices.snare with tone := t } }
      out := ⟨.control, 0⟩ :: s.out }
     ∧ exec (.setp .snare .snappy val) s = .next { s with
      voices := { s.voices with snare := { s.voices.snare with
        snappy := t
        snapEnv := { s.voices.snare.snapEnv with
          decayMs := reference.max (reference.add (F32.lit 50 0)
            (reference.mul t (reference.sub (F32.lit 300 0) (F32.lit 50 0)))) (F32.lit 1 1) } } }
      out := ⟨.control, 0⟩ :: s.out }))
  ∧ State.reset.voices.snare.snapEnv.decayMs = F32.lit 250 0
  ∧ reference.clamp (F32.lit 3 0).neg (F32.lit 0 0) (F32.lit 1 0) = F32.lit 0 0

/-- SETP cymbal, by the words 0x22000000 and 0x22100000: DECAY writes the register and the envelope's decay; TONE
writes the register and the two band-pass centres 3000 + 2000 tone and 7000 + 3000 tone (rule R230). -/
def Obligations.SetpCymbal : Prop :=
  ∀ (val : F32) (s : State), val.isFinite = true →
    decode .control 0x22000000 val.bits = .ok (.setp .cymbal .decay val)
    ∧ decode .control 0x22100000 val.bits = .ok (.setp .cymbal .tone val)
    ∧ (let d := reference.clamp val (F32.lit 500 0) (F32.lit 2000 0)
     exec (.setp .cymbal .decay val) s = .next { s with
      voices := { s.voices with cymbal := { s.voices.cymbal with
        decay := d
        env := { s.voices.cymbal.env with decayMs := reference.max d (F32.lit 1 1) } } }
      out := ⟨.control, 0⟩ :: s.out })
    ∧ (let t := reference.clamp val (F32.lit 0 0) (F32.lit 1 0)
       exec (.setp .cymbal .tone val) s = .next { s with
        voices := { s.voices with cymbal := { s.voices.cymbal with
          tone := t
          bp1 := s.voices.cymbal.bp1.setCutoff reference
            (reference.add (F32.lit 3000 0) (reference.mul t (F32.lit 2000 0)))
          bp2 := s.voices.cymbal.bp2.setCutoff reference
            (reference.add (F32.lit 7000 0) (reference.mul t (F32.lit 3000 0))) } }
        out := ⟨.control, 0⟩ :: s.out })

/-- SETP hihat, open: a value at or above 0.5 opens it (decay 400 ms), any other finite value closes it (decay 50 ms)
(rule R236). -/
def Obligations.SetpHihat : Prop :=
  ∀ (val : F32) (s : State), val.isFinite = true →
    exec (.setp .hihat .opened val) s = .next { s with
      voices := { s.voices with hihat := { s.voices.hihat with
        opened := F32.le (F32.lit 5 1) val
        env := { s.voices.hihat.env with
          decayMs := if F32.le (F32.lit 5 1) val = true then F32.lit 400 0 else F32.lit 50 0 } } }
      out := ⟨.control, 0⟩ :: s.out }

/-- SETP tom and SETP conga, tuning, by the words 0x24200000 and 0x25200000: the register takes the value clamped to
[120, 200] or [250, 400] Hz, the bridged-T takes it as its frequency at once, and nothing else changes (rules R264,
R272). -/
def Obligations.SetpTomAndConga : Prop :=
  (∀ (val : F32) (s : State), val.isFinite = true →
    decode .control 0x24200000 val.bits = .ok (.setp .tom .tuning val)
    ∧ decode .control 0x25200000 val.bits = .ok (.setp .conga .tuning val)
    ∧ (let f := reference.clamp val (F32.lit 120 0) (F32.lit 200 0)
     exec (.setp .tom .tuning val) s = .next { s with
      voices := { s.voices with tom := { s.voices.tom with
        tuning := f
        bt := { s.voices.tom.bt with freq := f } } }
      out := ⟨.control, 0⟩ :: s.out })
    ∧ (let f := reference.clamp val (F32.lit 250 0) (F32.lit 400 0)
       exec (.setp .conga .tuning val) s = .next { s with
        voices := { s.voices with conga := { s.voices.conga with
          tuning := f
          bt := { s.voices.conga.bt with freq := f } } }
        out := ⟨.control, 0⟩ :: s.out }))
  ∧ reference.clamp (F32.lit 100 0) (F32.lit 120 0) (F32.lit 200 0) = F32.lit 120 0
  ∧ reference.clamp (F32.lit 300 0) (F32.lit 250 0) (F32.lit 400 0) = F32.lit 300 0

/-! ### SAMPLE and the voices (rules R210 to R300, R319 to R322) -/

/-- SAMPLE completes in every state: `M.mix` is the sum of the ten voices' outputs, left to right in identifier order,
times the master volume, clamped to [-1, 1]; the response is the quantised sample, sign-extended; the master volume,
the error flag and the inputs still to be taken are left (rules R319, R321, R322). -/
def Obligations.SampleMixesTheVoices : Prop :=
  ∀ s : State, ∃ t : State,
    let r := s.runs reference
    let sum := [r.snare.out, r.cymbal.out, r.hihat.out, r.tom.out, r.conga.out, r.rimshot.out, r.maracas.out, r.clap.out,
      r.cowbell.out].foldl reference.add r.kick.out
    let q := reference.mul (reference.clamp t.mixer.mix (F32.lit 1 0).neg (F32.lit 1 0)) (F32.lit 32767 0)
    exec .sample s = .next t
    ∧ t.mixer.mix = reference.clamp (reference.mul sum s.mixer.master) (F32.lit 1 0).neg (F32.lit 1 0)
    ∧ t.mixer.rng = r.cowbell.rng ∧ t.mixer.master = s.mixer.master ∧ t.mixer.cmdErr = s.mixer.cmdErr
    ∧ t.voices = ⟨r.kick.voice, r.snare.voice, r.cymbal.voice, r.hihat.voice, r.tom.voice, r.conga.voice,
        r.rimshot.voice, r.maracas.voice, r.clap.voice, r.cowbell.voice⟩
    ∧ t.inbox = s.inbox ∧ t.out = ⟨.audio, (F32.toInt16 q).signExtend 32⟩ :: s.out

/-- An Idle voice returns exactly `+0.0`, changes no state at all and consumes no noise draw, whichever voice it is and
whatever the parameters: the noise word after its run is the word before it, which is the mixer's for the Kick and what
the run before left for every other voice (rules R210, R321). -/
def Obligations.IdleVoiceIsUntouched : Prop :=
  ∀ (P : Params) (s : State) (v : Voice), s.voices.playing v = false →
    (∃ t, exec .sample s = .next t ∧ t.voices.agreeOn s.voices v)
    ∧ (∃ t, execIn P .sample s = .next t ∧ t.voices.agreeOn s.voices v)
    ∧ (v = .kick → (s.runs P).kick.out = F32.zero ∧ (s.runs P).kick.rng = s.mixer.rng)
    ∧ (v = .snare → (s.runs P).snare.out = F32.zero ∧ (s.runs P).snare.rng = (s.runs P).kick.rng)
    ∧ (v = .cymbal → (s.runs P).cymbal.out = F32.zero ∧ (s.runs P).cymbal.rng = (s.runs P).snare.rng)
    ∧ (v = .hihat → (s.runs P).hihat.out = F32.zero ∧ (s.runs P).hihat.rng = (s.runs P).cymbal.rng)
    ∧ (v = .tom → (s.runs P).tom.out = F32.zero ∧ (s.runs P).tom.rng = (s.runs P).hihat.rng)
    ∧ (v = .conga → (s.runs P).conga.out = F32.zero ∧ (s.runs P).conga.rng = (s.runs P).tom.rng)
    ∧ (v = .rimshot → (s.runs P).rimshot.out = F32.zero ∧ (s.runs P).rimshot.rng = (s.runs P).conga.rng)
    ∧ (v = .maracas → (s.runs P).maracas.out = F32.zero ∧ (s.runs P).maracas.rng = (s.runs P).rimshot.rng)
    ∧ (v = .clap → (s.runs P).clap.out = F32.zero ∧ (s.runs P).clap.rng = (s.runs P).maracas.rng)
    ∧ (v = .cowbell → (s.runs P).cowbell.out = F32.zero ∧ (s.runs P).cowbell.rng = (s.runs P).clap.rng)

/-- With every voice Idle and a finite master volume of positive sign, SAMPLE responds 0, sets `M.mix` to `+0.0` and
changes nothing else (rule R319; for a negative zero volume see log entry 14). -/
def Obligations.SampleOfSilence : Prop :=
  ∀ s : State, (∀ v : Voice, s.voices.playing v = false) → s.mixer.master.isFinite = true →
    s.mixer.master.sign = false →
    exec .sample s = .next { s with
      mixer := { s.mixer with mix := F32.zero }
      out := ⟨.audio, 0⟩ :: s.out }

/-- A Sounding Kick's tick (rules R210, R214): pitch envelope, bridged-T through the low-pass, sub-sine, amplitude
envelope, then velocity and processor; the ages advance and the voice completes with `ampEnv`. -/
def Obligations.KickTick : Prop :=
  ∀ s : State, s.voices.kick.isPlaying = true →
    let P := reference
    let k := s.voices.kick
    let f := P.mul (F32.lit 50 0) (P.add (F32.lit 1 0) (P.mul (F32.lit 2 0) (k.pitchEnv.level P)))
    let bt := { k.bt with freq := P.clamp f (F32.lit 1 0) P.freqMax }
    let lp := k.lp.lowPass P (bt.out P)
    let d := k.ampEnv.doneNext P
    (s.runs P).kick.out = k.proc.run P (P.mul k.vel
        (P.mul (k.ampEnv.level P) (P.add lp.1 (P.mul (F32.lit 3 1) (k.sub.sineOut P)))))
    ∧ (s.runs P).kick.rng = s.mixer.rng
    ∧ (s.runs P).kick.voice = { k with
        isPlaying := !d, bt := bt.next P, lp := lp.2, sub := k.sub.advance P
        ampEnv := k.ampEnv.aged d, pitchEnv := k.pitchEnv.aged d }

/-- A Sounding Snare's tick (rules R210, R220): two bridged-T oscillators mixed 50/50 under the tonal envelope, scaled
by TONE, plus high-passed white noise under the noise envelope; it completes when both envelopes are done. -/
def Obligations.SnareTick : Prop :=
  ∀ s : State, s.voices.snare.isPlaying = true →
    let P := reference
    let n := s.voices.snare
    let r := (s.runs P).kick.rng
    let t := P.add (P.mul (F32.lit 5 1) (n.bt1.out P)) (P.mul (F32.lit 5 1) (n.bt2.out P))
    let hp := n.hp.highPass P (P.mul n.noise.amp (drawOf P (rngNext r)))
    let d := n.toneEnv.doneNext P && n.snapEnv.doneNext P
    (s.runs P).snare.out = n.proc.run P (P.mul n.vel
        (P.add (P.mul n.tone (P.mul t (n.toneEnv.level P))) (P.mul hp.1 (n.snapEnv.level P))))
    ∧ (s.runs P).snare.rng = rngNext r
    ∧ (s.runs P).snare.voice = { n with
        isPlaying := !d, bt1 := n.bt1.next P, bt2 := n.bt2.next P, hp := hp.2
        toneEnv := n.toneEnv.aged d, snapEnv := n.snapEnv.aged d }

/-- A Sounding Cymbal's and a Sounding HiHat's tick (rules R210, R228, R234): the six squares summed left to right and
divided by 6, through the band-pass filters and the high-pass, under the envelope; no noise draw. -/
def Obligations.CymbalAndHihatTick : Prop :=
  ∀ s : State,
    let P := reference
    let mean := fun b : Bank => P.div ([b.osc1.squareOut P, b.osc2.squareOut P, b.osc3.squareOut P, b.osc4.squareOut P,
      b.osc5.squareOut P].foldl P.add (b.osc0.squareOut P)) (F32.lit 6 0)
    (s.voices.cymbal.isPlaying = true →
      let c := s.voices.cymbal
      let f1 := c.bp1.bandPass P (mean c.osc)
      let f2 := c.bp2.bandPass P (mean c.osc)
      let hp := c.hp.highPass P (P.add (P.mul (F32.lit 7 1) f1.1) (P.mul (F32.lit 3 1) f2.1))
      let d := c.env.doneNext P
      (s.runs P).cymbal.out = c.proc.run P (P.mul c.vel (P.mul hp.1 (c.env.level P)))
      ∧ (s.runs P).cymbal.rng = (s.runs P).snare.rng
      ∧ (s.runs P).cymbal.voice = { c with
          isPlaying := !d, osc := c.osc.map (Osc.advance P), bp1 := f1.2, bp2 := f2.2, hp := hp.2, env := c.env.aged d })
    ∧ (s.voices.hihat.isPlaying = true →
      let h := s.voices.hihat
      let f := h.bp.bandPass P (mean h.osc)
      let hp := h.hp.highPass P f.1
      let d := h.env.doneNext P
      (s.runs P).hihat.out = h.proc.run P (P.mul h.vel (P.mul hp.1 (h.env.level P)))
      ∧ (s.runs P).hihat.rng = (s.runs P).cymbal.rng
      ∧ (s.runs P).hihat.voice = { h with
          isPlaying := !d, osc := h.osc.map (Osc.advance P), bp := f.2, hp := hp.2, env := h.env.aged d })

/-- A Sounding Tom's and a Sounding Conga's tick (rules R210, R260, R270): the bridged-T under the tonal envelope plus
low-passed pink noise, weighted 0.3, under the noise envelope; the Tom's frequency is then bent by 0.95. -/
def Obligations.TomAndCongaTick : Prop :=
  ∀ s : State,
    let P := reference
    let out := fun (g : Drum) (r : Word) => g.proc.run P (P.mul g.vel
      (P.add (P.mul (g.bt.out P) (g.toneEnv.level P)) (P.mul (F32.lit 3 1) (P.mul
        (g.lp.lpOut P (P.mul g.pinkOsc.amp (g.pinkOsc.pinkStep P (drawOf P (rngNext r))))) (g.noiseEnv.level P)))))
    let after := fun (g : Drum) (r : Word) =>
      let d := g.toneEnv.doneNext P && g.noiseEnv.doneNext P
      let y := g.pinkOsc.pinkStep P (drawOf P (rngNext r))
      { g with
        isPlaying := !d, bt := g.bt.next P, pinkOsc := { g.pinkOsc with pink := y }
        lp := { g.lp with y1 := g.lp.lpOut P (P.mul g.pinkOsc.amp y) }
        toneEnv := g.toneEnv.aged d, noiseEnv := g.noiseEnv.aged d }
    (s.voices.tom.isPlaying = true →
      let g := s.voices.tom
      let r := (s.runs P).hihat.rng
      (s.runs P).tom.out = out g r ∧ (s.runs P).tom.rng = rngNext r
      ∧ (s.runs P).tom.voice = { after g r with
          bt := { (g.bt.next P) with freq := P.clamp (P.mul g.bt.freq (F32.lit 95 2)) (F32.lit 1 0) P.freqMax } })
    ∧ (s.voices.conga.isPlaying = true →
      let g := s.voices.conga
      let r := (s.runs P).tom.rng
      (s.runs P).conga.out = out g r ∧ (s.runs P).conga.rng = rngNext r ∧ (s.runs P).conga.voice = after g r)

/-- A Sounding Rimshot's, Maracas' and Cowbell's tick (rules R210, R276, R282, R296). -/
def Obligations.RimshotMaracasCowbellTick : Prop :=
  ∀ s : State,
    let P := reference
    (s.voices.rimshot.isPlaying = true →
      let r := s.voices.rimshot
      let g := P.add (P.mul (P.sub (F32.lit 1 0) r.inh.mix) (r.inh.o1.sineOut P)) (P.mul r.inh.mix (r.inh.o2.sineOut P))
      let hp := r.hp.highPass P g
      let d := r.env.doneNext P
      (s.runs P).rimshot.out = r.proc.run P (P.mul r.vel (P.mul hp.1 (r.env.level P)))
      ∧ (s.runs P).rimshot.rng = (s.runs P).conga.rng
      ∧ (s.runs P).rimshot.voice = { r with
          isPlaying := !d, hp := hp.2, env := r.env.aged d
          inh := { r.inh with o1 := r.inh.o1.advance P, o2 := r.inh.o2.advance P } })
    ∧ (s.voices.maracas.isPlaying = true →
      let q := s.voices.maracas
      let r := (s.runs P).rimshot.rng
      let hp := q.hp.highPass P (P.mul q.noise.amp (drawOf P (rngNext r)))
      let d := q.env.doneNext P
      (s.runs P).maracas.out = q.proc.run P (P.mul q.vel (P.mul hp.1 (q.env.level P)))
      ∧ (s.runs P).maracas.rng = rngNext r
      ∧ (s.runs P).maracas.voice = { q with isPlaying := !d, hp := hp.2, env := q.env.aged d })
    ∧ (s.voices.cowbell.isPlaying = true →
      let b := s.voices.cowbell
      let m := P.add (P.mul (F32.lit 6 1) (b.o1.squareOut P)) (P.mul (F32.lit 4 1) (b.o2.squareOut P))
      let f := b.bp.bandPass P m
      let hp := b.hp.highPass P f.1
      let d := b.env.doneNext P
      (s.runs P).cowbell.out = b.proc.run P (P.mul b.vel (P.mul hp.1 (b.env.level P)))
      ∧ (s.runs P).cowbell.rng = (s.runs P).clap.rng
      ∧ (s.runs P).cowbell.voice = { b with
          isPlaying := !d, o1 := b.o1.advance P, o2 := b.o2.advance P, bp := f.2, hp := hp.2, env := b.env.aged d })

/-- A Sounding Clap's tick (rules R210, R211, R288, R291): a due burst first restarts `sawEnv`; then band-passed white
noise under the sum of the two envelopes; the Clap completes when both are done and no burst is left. -/
def Obligations.ClapTick : Prop :=
  ∀ s : State, s.voices.clap.isPlaying = true →
    let P := reference
    let c := s.voices.clap
    let r := (s.runs P).maracas.rng
    let due := 0 < c.burstsLeft ∧ F32.le (F32.lit 15 0) (P.mul (P.ofWord c.burstAge) P.tsMs) = true
    let saw := if due then { c.sawEnv with age := 0, isActive := true } else c.sawEnv
    let left := if due then c.burstsLeft - 1 else c.burstsLeft
    let bp := c.bp.bandPass P (P.mul c.noise.amp (drawOf P (rngNext r)))
    let d := saw.doneNext P && c.revEnv.doneNext P && left == 0
    (s.runs P).clap.out = c.proc.run P (P.mul c.vel (P.mul bp.1 (P.add (saw.level P) (c.revEnv.level P))))
    ∧ (s.runs P).clap.rng = rngNext r
    ∧ (s.runs P).clap.voice = { c with
        isPlaying := !d, bp := bp.2, sawEnv := saw.aged d, revEnv := c.revEnv.aged d
        burstsLeft := left, burstAge := satInc (if due then 0 else c.burstAge) }

/-- In one SAMPLE each Sounding noise voice takes exactly one draw of the shared generator and no other voice takes
any: the noise word advances by as many draws as there are Sounding noise voices, at every value of the parameters
(rules R321, R389). -/
def Obligations.NoiseDrawsPerTick : Prop :=
  ∀ s : State,
    (∃ t : State, exec .sample s = .next t ∧ t.mixer.rng = rngNext^[s.voices.draws] s.mixer.rng)
    ∧ ∀ P : Params, ∃ t : State, execIn P .sample s = .next t ∧ t.mixer.rng = rngNext^[s.voices.draws] s.mixer.rng

/-- A voice that is not triggered again goes Idle: from every state that meets the invariants and has the configured
constants of the reference instance, 65504 or more SAMPLE commands and nothing else leave all ten voices Idle (rules
R211, R391: the Cymbal at its longest decay needs exactly 65504). -/
def Obligations.EveryVoiceFallsSilent : Prop :=
  ∀ (s : State) (n : Nat), s.registersLegal → s.derived → s.flagsAgree →
    s.voices.configured = State.reset.voices.configured →
    65504 ≤ n → s.inbox = List.replicate n (.command .audio 0x80000000 0) →
    ∃ t : State, Sys2Proof.core.run n s = .next t ∧ ∀ v : Voice, t.voices.playing v = false

/-- With the five noise voices Idle, what SAMPLE does is independent of the noise word, which it leaves as it is: two
states that differ only there give the same voices, mixer output and response, at every value of the parameters
(rules R234, R321, R389). -/
def Obligations.ToneVoicesIgnoreTheNoiseWord : Prop :=
  ∀ (s : State) (w : Word), s.voices.draws = 0 →
    (∃ t : State, exec .sample s = .next t ∧ t.mixer.rng = s.mixer.rng
      ∧ exec .sample { s with mixer := { s.mixer with rng := w } } = .next { t with mixer := { t.mixer with rng := w } })
    ∧ ∀ P : Params, ∃ t : State, execIn P .sample s = .next t ∧ t.mixer.rng = s.mixer.rng
      ∧ execIn P .sample { s with mixer := { s.mixer with rng := w } }
        = .next { t with mixer := { t.mixer with rng := w } }

/-- After SAMPLE the mixer output is in [-1, 1] and the response in [-32767, 32767], unless the mixer output is a NaN
(rule R323; a NaN is what rule R317 rules out of a run from RESET). -/
def Obligations.SampleIsClipped : Prop :=
  ∀ s : State, ∃ t : State, ∃ w : Word, exec .sample s = .next t ∧ t.out = ⟨.audio, w⟩ :: s.out
    ∧ (t.mixer.mix.isNaN = true
      ∨ (F32.within F32.negOne F32.one t.mixer.mix ∧ -32767 ≤ w.toInt ∧ w.toInt ≤ 32767))

/-! ### Components (rules R130 to R203, R322) -/

/-- A clamp keeps a value of the range, and takes any value that is no NaN into it (rules R14, R54). -/
def Obligations.ClampHoldsTheRange : Prop :=
  ∀ lo hi x : F32, F32.le lo hi = true → x.isNaN = false →
    F32.within lo hi (reference.clamp x lo hi)
    ∧ (F32.within lo hi x → reference.clamp x lo hi = x)
    ∧ (F32.lt x lo = true → reference.clamp x lo hi = lo)
    ∧ (F32.lt hi x = true → reference.clamp x lo hi = hi)

/-- OSC_SETFREQ with any finite frequency leaves a frequency in [FREQ_MIN, FREQ_MAX] and an increment between 0 and
that of FREQ_MAX, `(TWO_PI_F * freq) / FS_F` (rule R130). -/
def Obligations.SetFreqGivesALegalIncrement : Prop :=
  ∀ (o : Osc) (f : F32), f.isFinite = true →
    F32.within (F32.lit 1 0) reference.freqMax (o.setFreq reference f).freq
    ∧ (o.setFreq reference f).inc
        = reference.div (reference.mul F32.twoPi (o.setFreq reference f).freq) (F32.lit 32768 0)
    ∧ (o.setFreq reference f).inc.isIncrement

/-- The phase advances by the increment, less TWO_PI_F (0x40C90FDB) where that is at or above it, which keeps every
phase in [0, 2 pi) (rule R131); the sine, the square and the saw read the phase before that advance (rules R132, R133,
R134). -/
def Obligations.AdvanceKeepsThePhaseInRange : Prop :=
  (∀ (P : Params) (o : Osc),
    let p := P.add o.phase o.inc
    let after := { o with phase := if P.le ⟨0x40C90FDB⟩ p = true then P.sub p ⟨0x40C90FDB⟩ else p }
    o.advance P = after
    ∧ o.sine P = (P.mul o.amp (P.sin o.phase), after)
    ∧ o.square P
      = (P.mul o.amp (if P.lt o.phase ⟨0x40490FDB⟩ = true then F32.lit 1 0 else (F32.lit 1 0).neg), after)
    ∧ o.saw P = (P.mul o.amp (P.sub (P.div o.phase ⟨0x40490FDB⟩) (F32.lit 1 0)), after))
  ∧ ∀ o : Osc, o.phaseOk → (o.advance reference).phaseOk

/-- BT_GEN of a ringing bridged-T: its output, the phase advanced at the drooping frequency with the amplitude before
the decay, the amplitude decayed; a silent one outputs `+0.0` and is left as it is.  One in range stays in range, and
while it rings its amplitude does not grow and it falls silent exactly when the amplitude is at or below THRESH (rules
R35, R143).  BT_SETDECAY of any finite time gives a decay rate in [0, 1] at every legal FS, NUMERIC, FTZ and
TIME_MIN_MS being the reference ones (rules R7, R141). -/
def Obligations.BridgedTStaysInRange : Prop :=
  (∀ b : Bt, b.active = true →
    let P := reference
    let p := P.add b.phase (P.div (P.mul ⟨0x40C90FDB⟩
      (P.mul b.freq (P.sub (F32.lit 1 0) (P.mul (F32.lit 1 1) b.amp)))) (F32.lit 32768 0))
    let a := P.mul b.amp (P.sub (F32.lit 1 0) b.decayRate)
    b.gen P = (P.mul b.amp (P.sin b.phase), { b with
      phase := if P.le ⟨0x40C90FDB⟩ p = true then P.sub p ⟨0x40C90FDB⟩ else p
      amp := a
      active := !P.le a ⟨0x3A83126F⟩ }))
  ∧ (∀ b : Bt, b.active = false → b.gen reference = (F32.zero, b))
  ∧ (∀ b : Bt, b.ok → (b.next reference).ok
    ∧ (b.active = true → F32.le (b.next reference).amp b.amp = true
      ∧ ((b.next reference).active = false ↔ F32.le (b.next reference).amp F32.thresh = true)))
  ∧ ∀ (B : Instance) (b : Bt) (ms : F32), B.params.num = ieeeBinary32 → B.params.ftz = false →
      B.params.cfg.timeMinMs = F32.lit 1 1 → ms.isFinite = true →
      F32.within F32.zero F32.one (b.setDecay B.params ms).decayRate

/-- RNG_NEXT is the xorshift with shifts 13, 17 and 5 (rule R136, with its example).  A draw takes the generator's next
word, and is exactly that word's upper 24 bits, signed, in units of 2^-23 (2^126 units of 2^-149), so it lies in
[-1, 1 - 2^-23] (rule R137). -/
def Obligations.NoiseDrawIsExact : Prop :=
  (∀ (w : Word) (k : Nat),
    let a := fun j => xor (w.getLsbD j) (decide (13 ≤ j) && w.getLsbD (j - 13))
    let b := fun j => xor (a j) (decide (j + 17 < 32) && a (j + 17))
    k < 32 → (rngNext w).getLsbD k = xor (b k) (decide (5 ≤ k) && b (k - 5)))
  ∧ rngNext 0x92D68CA2 = 0x2B1F4D63
  ∧ ∀ w : Word, noiseDraw reference w = (drawOf reference (rngNext w), rngNext w)
    ∧ (drawOf reference w).isFinite = true ∧ (drawOf reference w).key = (w.toInt / 2 ^ 8) * 2 ^ 126
    ∧ F32.within F32.negOne ⟨0x3F7FFFFE⟩ (drawOf reference w)

/-- A pink-noise draw puts `0.98 pink + 0.02 w` into the memory and outputs it times the amplitude, `w` being one draw
(rule R139); the memory stays in [-1, 1]. -/
def Obligations.PinkNoiseStaysBounded : Prop :=
  (∀ (o : Osc) (r : Word),
    let y := reference.add (reference.mul (F32.lit 98 2) o.pink)
      (reference.mul (F32.lit 2 2) (drawOf reference (rngNext r)))
    o.pinkNoise reference r = (reference.mul o.amp y, rngNext r, { o with pink := y }))
  ∧ ∀ (o : Osc) (w : Word), F32.within F32.negOne F32.one o.pink →
    F32.within F32.negOne F32.one (o.pinkStep reference (drawOf reference w))

/-- In the attack the envelope's level does not fall with age; in the decay of an envelope with sustain level 0 it does
not rise (rule R168). -/
def Obligations.EnvelopeIsMonotoneInEachPhase : Prop :=
  ∀ (e : Env) (a b : Word), e.isActive = true → e.attackMs.isFinite = true → F32.le (F32.lit 1 1) e.attackMs = true →
    a ≤ b →
    (F32.lt (Env.time reference { e with age := b }) e.attackMs = true →
      F32.le (Env.level reference { e with age := a }) (Env.level reference { e with age := b }) = true)
    ∧ (e.sustain = F32.zero → e.decayMs.isFinite = true → F32.le (F32.lit 1 1) e.decayMs = true →
      F32.le e.attackMs (Env.time reference { e with age := a }) = true →
      F32.lt (Env.time reference { e with age := b }) (reference.add e.attackMs e.decayMs) = true →
      F32.le (Env.level reference { e with age := b }) (Env.level reference { e with age := a }) = true)

/-- ENV_LEVEL of an active envelope at the time `t = f32(age) * TS_MS`: `t / A` in the attack, then
`1 - (1 - S) ((t - A) / D)`, then `S`.  It starts at level `+0.0`, and it is done once `A + D` is over where the sustain
level is 0; an inactive one is at `+0.0` and done (rules R160, R161, R162). -/
def Obligations.EnvelopeEnds : Prop :=
  ∀ e : Env, e.attackMs.isFinite = true → F32.lt F32.zero e.attackMs = true →
    e.decayMs.isFinite = true → F32.lt F32.zero e.decayMs = true →
    let P := reference
    let t := P.mul (P.ofWord e.age) ⟨0x3CFA0000⟩
    (e.isActive = true →
      (F32.lt t e.attackMs = true → e.level P = P.div t e.attackMs)
      ∧ (F32.le e.attackMs t = true → F32.lt t (P.add e.attackMs e.decayMs) = true →
        e.level P = P.sub (F32.lit 1 0)
          (P.mul (P.sub (F32.lit 1 0) e.sustain) (P.div (P.sub t e.attackMs) e.decayMs)))
      ∧ (F32.le (P.add e.attackMs e.decayMs) t = true →
        e.level P = e.sustain ∧ (e.sustain = F32.zero → e.done P = true))
      ∧ (e.age = 0 → e.level P = F32.zero ∧ e.done P = false))
    ∧ (e.isActive = false → e.level P = F32.zero ∧ e.done P = true)

/-- An age counts up by one and stays at 2^32 - 1 (rule R164). -/
def Obligations.AgeSaturates : Prop :=
  ∀ e : Env, e.advance = { e with age := e.advance.age }
    ∧ e.advance.age.toNat = min (e.age.toNat + 1) (2 ^ 32 - 1)

/-- FLT_SETCUTOFF clamps the cutoff to [FILT_MIN, FREQ_MAX] and derives the four coefficients from it and the
resonance, with `w = (TWO_PI_F * cutoff) / FS_F` and `a = SIN(w) / (2 q)`; nothing else changes; the example of rule R182
holds (rules R180, R182).  For any finite frequency `alpha` is then strictly between 0 and 1. -/
def Obligations.SetCutoffGivesALegalPole : Prop :=
  (∀ (f : Flt) (fc : F32),
    let P := reference
    let c := P.clamp fc (F32.lit 20 0) P.freqMax
    let w := P.div (P.mul ⟨0x40C90FDB⟩ c) (F32.lit 32768 0)
    let a := P.div (P.sin w) (P.mul (F32.lit 2 0) f.q)
    f.setCutoff P fc = { f with
      cutoff := c
      alpha := P.div w (P.add w (F32.lit 1 0))
      beta := P.div a (P.add (F32.lit 1 0) a)
      gamma := P.div (P.mul (F32.lit 2 0) (P.cos w)) (P.add (F32.lit 1 0) a)
      delta := P.div (P.sub (F32.lit 1 0) a) (P.add (F32.lit 1 0) a) })
  ∧ (∀ f : Flt, f.q = F32.lit 2 0 →
    (f.setCutoff reference (F32.lit 1000 0)).beta = ⟨0x3D3A4617⟩
    ∧ (f.setCutoff reference (F32.lit 1000 0)).gamma = ⟨0x3FEFE125⟩
    ∧ (f.setCutoff reference (F32.lit 1000 0)).delta = ⟨0x3F68B73E⟩)
  ∧ ∀ (f : Flt) (fc : F32), fc.isFinite = true →
    F32.within (F32.lit 20 0) reference.freqMax (f.setCutoff reference fc).cutoff
    ∧ F32.lt F32.zero (f.setCutoff reference fc).alpha = true ∧ F32.lt (f.setCutoff reference fc).alpha F32.one = true

/-- The three filter recursions, and which delay registers each writes (rules R183, R184, R185). -/
def Obligations.FilterRecursions : Prop :=
  ∀ (P : Params) (f : Flt) (x : F32),
    (let y := P.add (P.mul f.alpha x) (P.mul (P.sub (F32.lit 1 0) f.alpha) f.y1)
     f.lowPass P x = (y, { f with y1 := y }))
    ∧ (let y := P.mul f.alpha (P.add (P.sub x f.x1) f.y1)
       f.highPass P x = (y, { f with x1 := x, y1 := y }))
    ∧ (let y := P.sub (P.add (P.mul f.beta (P.sub x f.x2)) (P.mul f.gamma f.y1)) (P.mul f.delta f.y2)
       f.bandPass P x = (y, { f with x1 := x, x2 := f.x1, y1 := y, y2 := f.y1 }))

/-- The reference TANH is odd on every value but a NaN, at most 1 in magnitude, and 0 at 0; the reference SIN is 0 at
0 (rule R15).  TANH(0.5) is the value of rule R200's example. -/
def Obligations.ReferenceFunctionProperties : Prop :=
  (∀ x : F32, x.isNaN = false → reference.tanh x.neg = (reference.tanh x).neg)
  ∧ (∀ x : F32, x.isNaN = false → F32.within F32.negOne F32.one (reference.tanh x))
  ∧ reference.tanh F32.zero = F32.zero ∧ reference.sin F32.zero = F32.zero ∧ reference.tanh ⟨0x3F000000⟩ = ⟨0x3EEC9A9F⟩

/-- The processor is the identity times the gain where the saturation amount is 0 or less, and otherwise
`TANH(x sat) / sat` times the gain, whose saturated value is within `1 / sat` (rules R200, R201). -/
def Obligations.ProcessorSaturates : Prop :=
  ∀ (p : Proc) (x : F32), x.isFinite = true → p.sat.isFinite = true →
    (F32.le p.sat F32.zero = true → p.run reference x = reference.mul x p.gain)
    ∧ (F32.lt F32.zero p.sat = true →
        p.run reference x
          = reference.mul (reference.div (reference.tanh (reference.mul x p.sat)) p.sat) p.gain
        ∧ F32.within (reference.div F32.one p.sat).neg (reference.div F32.one p.sat) (p.saturate reference x))

/-- The quantiser multiplies the clipped value by 32767 and truncates toward zero, so -32768 is never produced; the
values of 95_test_vectors.md V10.1 come out as there (rule R322). -/
def Obligations.QuantiserTruncates : Prop :=
  (∀ x : F32, F32.within F32.negOne F32.one x →
    (quantise reference x).toInt = (reference.mul x (F32.lit 32767 0)).key.tdiv (2 ^ 149)
    ∧ -32767 ≤ (quantise reference x).toInt ∧ (quantise reference x).toInt ≤ 32767)
  ∧ (quantise reference ⟨0x3F000000⟩).toInt = 16383 ∧ (quantise reference ⟨0xBF000000⟩).toInt = -16383

/-- The Tom's bend multiplies the bridged-T's frequency by 0.95 and clamps it, and 104 bends or more take every legal
tuning to FREQ_MIN, nothing else of the record changing; so a Tom that still sounds after `n >= 104` SAMPLE commands
rings at 1.0 Hz (rules R262, R390). -/
def Obligations.TomBendCollapses : Prop :=
  (∀ d : Drum, tomBend reference d = { d with bt := { d.bt with
      freq := reference.clamp (reference.mul d.bt.freq (F32.lit 95 2)) (F32.lit 1 0) reference.freqMax } })
  ∧ (∀ (d : Drum) (n : Nat), referenceCfg.tomTuning.holds d.bt.freq → 104 ≤ n →
    (tomBend reference)^[n] d = { d with bt := { d.bt with freq := F32.lit 1 0 } })
  ∧ ∀ (s : State) (n : Nat), referenceCfg.tomTuning.holds s.voices.tom.bt.freq → 104 ≤ n →
    s.inbox = List.replicate n (.command .audio 0x80000000 0) →
    ∃ t : State, Sys2Proof.core.run n s = .next t
      ∧ (t.voices.playing .tom = true → t.voices.tom.bt.freq = F32.lit 1 0)

/-! ### Reset and invariants (rules R34, R52, R54, R57, R313, R383) -/

/-- The values of rule R383's table after RESET. -/
def Obligations.ResetValues : Prop :=
  let m := State.reset.mixer
  let v := State.reset.voices
  (m.master = F32.lit 8 1 ∧ m.mix = F32.zero ∧ m.cmdErr = false ∧ m.rng = 0x92D68CA2)
  ∧ (∀ x ∈ Voice.all, v.playing x = false ∧ v.velocity x = F32.zero)
  ∧ (∀ x ∈ Voice.all, ∀ e ∈ v.envs x, e.age = 0 ∧ e.isActive = false ∧ e.attackMs = F32.lit 1 0
      ∧ e.releaseMs = F32.lit 1 1 ∧ e.sustain = F32.zero)
  ∧ (v.kick.ampEnv.decayMs = F32.lit 500 0 ∧ v.kick.pitchEnv.decayMs = F32.lit 30 0
    ∧ v.snare.toneEnv.decayMs = F32.lit 150 0 ∧ v.snare.snapEnv.decayMs = F32.lit 250 0
    ∧ v.cymbal.env.decayMs = F32.lit 800 0 ∧ v.hihat.env.decayMs = F32.lit 50 0
    ∧ v.tom.toneEnv.decayMs = F32.lit 200 0 ∧ v.tom.noiseEnv.decayMs = F32.lit 100 0
    ∧ v.conga.toneEnv.decayMs = F32.lit 150 0 ∧ v.conga.noiseEnv.decayMs = F32.lit 50 0
    ∧ v.rimshot.env.decayMs = F32.lit 10 0 ∧ v.maracas.env.decayMs = F32.lit 30 0
    ∧ v.clap.sawEnv.decayMs = F32.lit 10 0 ∧ v.clap.revEnv.decayMs = F32.lit 150 0
    ∧ v.cowbell.env.decayMs = F32.lit 100 0)
  ∧ (∀ x ∈ Voice.all, ∀ o ∈ v.oscs x, o.phase = F32.zero ∧ o.pink = F32.zero)
  ∧ (∀ x ∈ Voice.all, ∀ b ∈ v.bts x, b.phase = F32.zero ∧ b.amp = F32.zero ∧ b.active = false)
  ∧ (v.kick.bt.freq = F32.lit 50 0 ∧ v.snare.bt1.freq = F32.lit 180 0 ∧ v.snare.bt2.freq = F32.lit 200 0
    ∧ v.tom.bt.freq = F32.lit 165 0 ∧ v.conga.bt.freq = F32.lit 370 0)
  ∧ (∀ x ∈ Voice.all, ∀ f ∈ v.flts x, f.x1 = F32.zero ∧ f.x2 = F32.zero ∧ f.y1 = F32.zero ∧ f.y2 = F32.zero)
  ∧ (v.kick.lp.cutoff = F32.lit 550 0 ∧ v.snare.hp.cutoff = F32.lit 2000 0
    ∧ v.cymbal.bp1.cutoff = F32.lit 4000 0 ∧ v.cymbal.bp2.cutoff = F32.lit 8500 0
    ∧ v.cymbal.hp.cutoff = F32.lit 5000 0 ∧ v.hihat.bp.cutoff = F32.lit 8000 0 ∧ v.hihat.hp.cutoff = F32.lit 7000 0
    ∧ v.tom.lp.cutoff = F32.lit 1000 0 ∧ v.conga.lp.cutoff = F32.lit 2000 0 ∧ v.rimshot.hp.cutoff = F32.lit 1000 0
    ∧ v.maracas.hp.cutoff = F32.lit 5000 0 ∧ v.clap.bp.cutoff = F32.lit 1000 0
    ∧ v.cowbell.bp.cutoff = F32.lit 800 0 ∧ v.cowbell.hp.cutoff = F32.lit 500 0)
  ∧ v.registers = ⟨F32.lit 500 0, F32.lit 5 1, F32.lit 7 1, F32.lit 8 1, F32.lit 800 0, F32.lit 5 1, false,
      F32.lit 165 0, F32.lit 370 0⟩
  ∧ (v.clap.burstsLeft = 0 ∧ v.clap.burstAge = 0)

/-- The five invariants below hold right after RESET. -/
def Obligations.ResetMeetsTheInvariants : Prop :=
  State.reset.registersLegal ∧ State.reset.derived ∧ State.reset.flagsAgree ∧ State.reset.phasesOk
    ∧ State.reset.noiseAlive

/-- INVARIANT (rules R54, R312, R316): whatever is written, the control registers, the latched velocities and the
master volume hold legal values. -/
def Obligations.RegistersStayLegal : Prop :=
  ∀ s t : State, s.registersLegal → step s = .next t → t.registersLegal

/-- INVARIANT (rules R34, R57): increments, decay rates, filter coefficients and the envelope decays that depend on a
register hold what their rules compute, after every step, at every value of the parameters. -/
def Obligations.DerivedElementsStayDerived : Prop :=
  (∀ s t : State, s.derived → step s = .next t → t.derived)
  ∧ ∀ (P : Params) (s t : State), s.voices.derived P → stepIn P s = .next t → t.voices.derived P

/-- INVARIANT (rules R53, R210, R211, R312): an envelope is active exactly while its voice sounds; an Idle Clap has no
burst left, and at most two are ever left. -/
def Obligations.EnvelopeFlagsFollowTheVoice : Prop := ∀ s t : State, s.flagsAgree → step s = .next t → t.flagsAgree

/-- INVARIANT (rules R34, R35, R143): every phase stays in [0, 2 pi), every bridged-T amplitude in [0, 1], every
bridged-T frequency in [FREQ_MIN, FREQ_MAX]. -/
def Obligations.PhasesStayInRange : Prop := ∀ s t : State, s.phasesOk → step s = .next t → t.phasesOk

/-- INVARIANT (rules R52, R136): the noise word never becomes 0, at every legal choice of the parameters; it is not 0
after RESET (rule R7: the seed is not 0). -/
def Obligations.NoiseWordStaysNonzero : Prop :=
  (∀ s t : State, s.noiseAlive → step s = .next t → t.noiseAlive)
  ∧ ∀ B : Instance, (State.resetOf B.params).noiseAlive
    ∧ ∀ s t : State, s.noiseAlive → stepIn B.params s = .next t → t.noiseAlive

/-- No command writes a processor's gain or saturation, an oscillator's amplitude or frequency, a filter's resonance,
a cutoff that no register reaches, the Rimshot's mix ratio, or an envelope's attack, release or sustain, at any value of
the parameters (rule R313). -/
def Obligations.NoCommandWritesTheConfiguration : Prop :=
  ∀ (P : Params) (i : Instr) (s t : State), (exec i s = .next t ∨ execIn P i s = .next t) →
    t.voices.configured = s.voices.configured

/-- Who writes a flag or a register (rules R53, R54, R313): a voice becomes Sounding only by its own TRIG and Idle
only by SAMPLE; the error flag is cleared only by STATUS and set only by a rejection; the voices' control registers
change only by SETP, the master volume only by SETMV, and the noise word and the mixer output only by SAMPLE; at any
value of the parameters. -/
def Obligations.OnlyTheirCommandsWriteThem : Prop :=
  ∀ (P : Params) (i : Instr) (s t : State), (exec i s = .next t ∨ execIn P i s = .next t) →
    (∀ v : Voice, s.voices.playing v = false → t.voices.playing v = true → ∃ val, i = .trig v val)
    ∧ (∀ v : Voice, s.voices.playing v = true → t.voices.playing v = false → i = .sample)
    ∧ (s.mixer.cmdErr = true → t.mixer.cmdErr = false → i = .status)
    ∧ (s.mixer.cmdErr = false → t.mixer.cmdErr = true → i.wellFormed = false)
    ∧ (t.voices.registers ≠ s.voices.registers → i.op = .setp)
    ∧ (t.mixer.master ≠ s.mixer.master → i.op = .setmv)
    ∧ (t.mixer.rng ≠ s.mixer.rng ∨ t.mixer.mix ≠ s.mixer.mix → i = .sample)
end

