-- ==== Sys2Proof/Laws/Rounding.lean ====
section
/-!
SUPPORT. Rounding to binary32 is monotone and keeps what is already a binary32 value.  `patternMag b` is the magnitude
of the pattern `b` (sign bit excluded) in units of 2^-149.
-/

namespace Sys2Proof.F32

/-- The magnitude of a pattern below the sign bit. -/
def patternMag (b : Nat) : Nat := if b / 2 ^ 23 = 0 then b else (2 ^ 23 + b % 2 ^ 23) * 2 ^ (b / 2 ^ 23 - 1)

theorem patternMag_small {b : Nat} (h : b < 2 ^ 23) : patternMag b = b := by
  unfold patternMag
  rw [if_pos (by omega)]

/-- The step from one pattern to the next one up is a whole unit or more. -/
theorem patternMag_lt_succ (b : Nat) : patternMag b < patternMag (b + 1) := by
  unfold patternMag
  rcases Nat.lt_or_ge (b + 1) (2 ^ 23) with h | h
  · have h1 : b / 2 ^ 23 = 0 := by omega
    have h2 : (b + 1) / 2 ^ 23 = 0 := by omega
    rw [if_pos h1, if_pos h2]
    exact Nat.lt_succ_self b
  · have h2 : (b + 1) / 2 ^ 23 ≠ 0 := by omega
    rw [if_neg h2]
    rcases Nat.eq_zero_or_pos (b / 2 ^ 23) with h1 | h1
    · have h3 : (b + 1) / 2 ^ 23 = 1 := by omega
      have h4 : (b + 1) % 2 ^ 23 = 0 := by omega
      rw [if_pos h1, h3, h4]
      norm_num
      omega
    · rw [if_neg (by omega)]
      rcases Nat.lt_or_ge (b % 2 ^ 23 + 1) (2 ^ 23) with h5 | h5
      · have h6 : (b + 1) / 2 ^ 23 = b / 2 ^ 23 := by omega
        have h7 : (b + 1) % 2 ^ 23 = b % 2 ^ 23 + 1 := by omega
        rw [h6, h7]
        exact Nat.mul_lt_mul_of_pos_right (by omega) (Nat.two_pow_pos _)
      · have h6 : (b + 1) / 2 ^ 23 - 1 = (b / 2 ^ 23 - 1) + 1 := by omega
        have h7 : (b + 1) % 2 ^ 23 = 0 := by omega
        have h10 : 2 ^ (b / 2 ^ 23 - 1 + 1) = 2 ^ (b / 2 ^ 23 - 1) * 2 := pow_succ _ _
        rw [h6, h7, h10]
        have h8 := Nat.two_pow_pos (b / 2 ^ 23 - 1)
        have h9 : b % 2 ^ 23 < 2 ^ 23 := Nat.mod_lt _ (by norm_num)
        generalize 2 ^ (b / 2 ^ 23 - 1) = p at *
        generalize b % 2 ^ 23 = m at *
        nlinarith

theorem patternMag_strictMono : StrictMono patternMag := strictMono_nat_of_lt_succ patternMag_lt_succ

theorem patternMag_le_iff {a b : Nat} : patternMag a ≤ patternMag b ↔ a ≤ b := patternMag_strictMono.le_iff_le

theorem patternMag_lt_iff {a b : Nat} : patternMag a < patternMag b ↔ a < b := patternMag_strictMono.lt_iff_lt

theorem patternMag_inj {a b : Nat} : patternMag a = patternMag b ↔ a = b := patternMag_strictMono.injective.eq_iff

/-! ### Rounding a quotient to an integer -/

theorem div_le_divRne (n d : Nat) : n / d ≤ divRne n d := by
  unfold divRne; dsimp only; split <;> omega

theorem divRne_le (n d : Nat) : divRne n d ≤ n / d + 1 := by
  unfold divRne; dsimp only; split <;> omega

/-- Rounding a quotient is monotone in the quotient. -/
theorem divRne_mono {n d n' d' : Nat} (hd : 0 < d) (hd' : 0 < d') (h : n * d' ≤ n' * d) :
    divRne n d ≤ divRne n' d' := by
  have hq : n / d ≤ n' / d' := by
    rw [Nat.le_div_iff_mul_le hd', ← Nat.mul_le_mul_right_iff hd]
    calc n / d * d' * d = n / d * d * d' := by ring
      _ ≤ n * d' := Nat.mul_le_mul_right _ (Nat.div_mul_le_self _ _)
      _ ≤ n' * d := h
  rcases Nat.lt_or_ge (n / d) (n' / d') with hlt | hge
  · exact (divRne_le n d).trans (hlt.trans_le (div_le_divRne n' d'))
  · have hm : n / d = n' / d' := Nat.le_antisymm hq hge
    have e1 := Nat.div_add_mod n d
    have e2 := Nat.div_add_mod n' d'
    have hr : n % d * d' ≤ n' % d' * d := by
      rw [← e1, ← e2, hm] at h
      nlinarith
    unfold divRne
    dsimp only
    rw [hm]
    generalize n % d = r at *
    generalize n' % d' = r' at *
    split
    · rename_i hup
      rw [if_pos]
      rcases hup with hup | ⟨hup, hodd⟩
      · left; nlinarith
      · rcases Nat.lt_or_ge d' (2 * r') with hlt' | hge'
        · exact Or.inl hlt'
        · right
          refine ⟨Nat.le_antisymm hge' ?_, hodd⟩
          by_contra hc
          nlinarith
    · split <;> omega

theorem divRne_of_dvd {m d : Nat} (hd : 0 < d) : divRne (m * d) d = m := by
  unfold divRne
  simp only [Nat.mul_div_cancel m hd, Nat.mul_mod_left]
  rw [if_neg]
  omega

/-! ### Rounding a magnitude -/

theorem lt_two_pow_ulpShift (q : Nat) : q < 2 ^ 24 * 2 ^ ulpShift q := by
  have h := Nat.lt_log2_self (n := q)
  calc q < 2 ^ (q.log2 + 1) := h
    _ ≤ 2 ^ (24 + ulpShift q) := Nat.pow_le_pow_right (by norm_num) (by unfold ulpShift; omega)
    _ = 2 ^ 24 * 2 ^ ulpShift q := by rw [pow_add]

theorem two_pow_ulpShift_le {q : Nat} (h : 0 < ulpShift q) : 2 ^ 23 * 2 ^ ulpShift q ≤ q := by
  have hq : q ≠ 0 := by
    rintro rfl
    simp [ulpShift] at h
  have h2 := Nat.log2_self_le hq
  calc 2 ^ 23 * 2 ^ ulpShift q = 2 ^ (23 + ulpShift q) := by rw [pow_add]
    _ = 2 ^ q.log2 := by congr 1; unfold ulpShift at *; omega
    _ ≤ q := h2

theorem ulpShift_mono {a b : Nat} (h : a ≤ b) : ulpShift a ≤ ulpShift b := by
  unfold ulpShift
  rcases Nat.eq_zero_or_pos a with rfl | ha
  · simp
  · have : a.log2 ≤ b.log2 := by
      rw [Nat.le_log2 (by omega)]
      exact (Nat.log2_self_le (by omega)).trans h
    omega

/-- The rounded pattern before the infinity cuts it off. -/
def roundPattern (n d : Nat) : Nat := ulpShift (n / d) * 2 ^ 23 + divRne n (d * 2 ^ ulpShift (n / d))

theorem roundMag_eq (n d : Nat) : roundMag n d = min (roundPattern n d) 0x7F800000 := rfl

theorem roundPattern_mono {n d n' d' : Nat} (hd : 0 < d) (hd' : 0 < d') (h : n * d' ≤ n' * d) :
    roundPattern n d ≤ roundPattern n' d' := by
  have hq : n / d ≤ n' / d' := by
    rw [Nat.le_div_iff_mul_le hd', ← Nat.mul_le_mul_right_iff hd]
    calc n / d * d' * d = n / d * d * d' := by ring
      _ ≤ n * d' := Nat.mul_le_mul_right _ (Nat.div_mul_le_self _ _)
      _ ≤ n' * d := h
  have hk := ulpShift_mono hq
  unfold roundPattern
  have hp := Nat.two_pow_pos (ulpShift (n / d))
  have hp' := Nat.two_pow_pos (ulpShift (n' / d'))
  rcases Nat.lt_or_ge (ulpShift (n / d)) (ulpShift (n' / d')) with hlt | hge
  · have h1 : divRne n (d * 2 ^ ulpShift (n / d)) ≤ 2 ^ 24 := by
      refine (divRne_le _ _).trans ?_
      rw [← Nat.div_div_eq_div_mul]
      have := (Nat.div_lt_iff_lt_mul hp).2 (lt_two_pow_ulpShift (n / d))
      omega
    have h2 : 2 ^ 23 ≤ divRne n' (d' * 2 ^ ulpShift (n' / d')) := by
      refine le_trans ?_ (div_le_divRne _ _)
      rw [← Nat.div_div_eq_div_mul, Nat.le_div_iff_mul_le hp']
      exact two_pow_ulpShift_le (by omega)
    omega
  · have he : ulpShift (n' / d') = ulpShift (n / d) := Nat.le_antisymm hge hk
    rw [he]
    refine Nat.add_le_add_left (divRne_mono (Nat.mul_pos hd hp) (Nat.mul_pos hd' hp) ?_) _
    calc n * (d' * 2 ^ ulpShift (n / d)) = n * d' * 2 ^ ulpShift (n / d) := by ring
      _ ≤ n' * d * 2 ^ ulpShift (n / d) := Nat.mul_le_mul_right _ h
      _ = n' * (d * 2 ^ ulpShift (n / d)) := by ring

/-- Rounding is monotone. -/
theorem roundMag_mono {n d n' d' : Nat} (hd : 0 < d) (hd' : 0 < d') (h : n * d' ≤ n' * d) :
    roundMag n d ≤ roundMag n' d' := by
  rw [roundMag_eq, roundMag_eq]
  exact min_le_min_right _ (roundPattern_mono hd hd' h)

theorem roundMag_le (n d : Nat) : roundMag n d ≤ 0x7F800000 := by
  rw [roundMag_eq]; exact min_le_right _ _

theorem roundPattern_patternMag (b : Nat) : roundPattern (patternMag b) 1 = b := by
  unfold roundPattern
  rw [Nat.div_one, one_mul]
  rcases Nat.lt_or_ge b (2 ^ 23) with h | h
  · rw [patternMag_small h]
    have h1 : ulpShift b = 0 := by
      unfold ulpShift
      rcases Nat.eq_zero_or_pos b with rfl | hb
      · simp
      · have := (Nat.log2_lt (n := b) (k := 23) (by omega)).2 h
        omega
    rw [h1, pow_zero]
    have := divRne_of_dvd (m := b) (d := 1) (by norm_num)
    rw [mul_one] at this
    omega
  · have h0 : b / 2 ^ 23 ≠ 0 := by omega
    have hm : b % 2 ^ 23 < 2 ^ 23 := Nat.mod_lt _ (by norm_num)
    have hl : ulpShift (patternMag b) = b / 2 ^ 23 - 1 := by
      unfold patternMag ulpShift
      rw [if_neg h0]
      have : ((2 ^ 23 + b % 2 ^ 23) * 2 ^ (b / 2 ^ 23 - 1)).log2 = 23 + (b / 2 ^ 23 - 1) := by
        have hp := Nat.two_pow_pos (b / 2 ^ 23 - 1)
        rw [Nat.log2_eq_iff (Nat.pos_iff_ne_zero.1 (by positivity))]
        constructor
        · rw [pow_add]; exact Nat.mul_le_mul_right _ (by omega)
        · rw [show 23 + (b / 2 ^ 23 - 1) + 1 = 24 + (b / 2 ^ 23 - 1) by omega, pow_add]
          exact Nat.mul_lt_mul_of_pos_right (by omega) hp
      omega
    rw [hl]
    have : patternMag b = (2 ^ 23 + b % 2 ^ 23) * 2 ^ (b / 2 ^ 23 - 1) := by
      unfold patternMag; rw [if_neg h0]
    rw [this, divRne_of_dvd (Nat.two_pow_pos _)]
    omega

/-- A magnitude that a binary32 pattern has is rounded to that pattern. -/
theorem roundMag_patternMag {b : Nat} (h : b ≤ 0x7F800000) : roundMag (patternMag b) 1 = b := by
  rw [roundMag_eq, roundPattern_patternMag]; omega

/-- A quotient at or below a pattern's magnitude rounds to that pattern or below. -/
theorem roundMag_le_of_le {n d b : Nat} (hd : 0 < d) (hb : b ≤ 0x7F800000) (h : n ≤ patternMag b * d) :
    roundMag n d ≤ b := by
  have := roundMag_mono (n := n) (d := d) (n' := patternMag b) (d' := 1) hd (by norm_num) (by simpa using h)
  rwa [roundMag_patternMag hb] at this

/-- A quotient at or above a pattern's magnitude rounds to that pattern or above. -/
theorem le_roundMag_of_le {n d b : Nat} (hd : 0 < d) (hb : b ≤ 0x7F800000) (h : patternMag b * d ≤ n) :
    b ≤ roundMag n d := by
  have := roundMag_mono (n := patternMag b) (d := 1) (n' := n) (d' := d) (by norm_num) hd (by simpa using h)
  rwa [roundMag_patternMag hb] at this

theorem roundMag_zero (d : Nat) : roundMag 0 d = 0 := by
  simp [roundMag, divRne, ulpShift]

end Sys2Proof.F32
end

