-- ==== Sys2Proof/Laws/Arith.lean ====
section
/-!
SUPPORT. What each binary32 operation answers, said once: which class its result has, and its value `key` (in units of
2^-149) as the rounding `rnd` of the exact result.  Later proofs cite these and never unfold an operation.
-/

namespace Sys2Proof.F32

/-! ### Classes of patterns -/

theorem magBits_lt (x : F32) : x.magBits < 2 ^ 31 := Nat.mod_lt _ (by norm_num)

theorem expo_eq (x : F32) : x.expo = x.magBits / 2 ^ 23 := by
  have := x.bits.isLt
  unfold expo magBits
  omega

theorem frac_eq (x : F32) : x.frac = x.magBits % 2 ^ 23 := by
  have := x.bits.isLt
  unfold frac magBits
  omega

theorem mag_eq_patternMag (x : F32) : x.mag = patternMag x.magBits := by
  unfold mag patternMag
  rw [expo_eq, frac_eq]
  split
  · omega
  · rfl

theorem isNaN_iff (x : F32) : x.isNaN = true ↔ 0x7F800000 < x.magBits := by
  have := magBits_lt x
  simp only [isNaN, expo_eq, frac_eq, Bool.and_eq_true, beq_iff_eq, bne_iff_ne]
  omega

theorem isInf_iff (x : F32) : x.isInf = true ↔ x.magBits = 0x7F800000 := by
  have := magBits_lt x
  simp only [isInf, expo_eq, frac_eq, Bool.and_eq_true, beq_iff_eq]
  omega

theorem isFinite_iff (x : F32) : x.isFinite = true ↔ x.magBits < 0x7F800000 := by
  have := magBits_lt x
  simp only [isFinite, expo_eq, bne_iff_ne]
  omega

theorem isNaN_false_iff (x : F32) : x.isNaN = false ↔ x.magBits ≤ 0x7F800000 := by
  rw [← Bool.not_eq_true, isNaN_iff, not_lt]

theorem isInf_false_iff (x : F32) : x.isInf = false ↔ x.magBits ≠ 0x7F800000 := by
  rw [← Bool.not_eq_true, isInf_iff]

theorem isNaN_of_isFinite {x : F32} (h : x.isFinite = true) : x.isNaN = false := by
  rw [isFinite_iff] at h; rw [isNaN_false_iff]; omega

theorem isInf_of_isFinite {x : F32} (h : x.isFinite = true) : x.isInf = false := by
  rw [isFinite_iff] at h; rw [isInf_false_iff]; omega

/-! ### Patterns built from a sign and a magnitude -/

theorem ofMagBits_toNat (n : Bool) {b : Nat} (h : b < 2 ^ 31) :
    (ofMagBits n b).bits.toNat = if n then 2 ^ 31 + b else b := by
  unfold ofMagBits
  rw [BitVec.toNat_ofNat]
  cases n
  · simp only [Bool.false_eq_true, if_false]; omega
  · simp only [if_true]; omega

@[simp] theorem magBits_ofMagBits (n : Bool) {b : Nat} (h : b < 2 ^ 31) : (ofMagBits n b).magBits = b := by
  unfold magBits
  rw [ofMagBits_toNat n h]
  split <;> omega

@[simp] theorem sign_ofMagBits (n : Bool) {b : Nat} (h : b < 2 ^ 31) : (ofMagBits n b).sign = n := by
  unfold sign
  rw [BitVec.msb_eq_decide, ofMagBits_toNat n h]
  cases n
  · simp only [Bool.false_eq_true, if_false, decide_eq_false_iff_not]; omega
  · simp only [if_true, decide_eq_true_eq]; omega

theorem sign_eq_decide (x : F32) : x.sign = decide (2 ^ 31 ≤ x.bits.toNat) := by
  have h := BitVec.msb_eq_decide x.bits
  simpa [sign] using h

theorem ofMagBits_sign_magBits (x : F32) : ofMagBits x.sign x.magBits = x := by
  have hlt := x.bits.isLt
  have e : (ofMagBits x.sign x.magBits).bits.toNat = x.bits.toNat := by
    rw [ofMagBits_toNat _ (magBits_lt x), sign_eq_decide]
    unfold magBits
    by_cases h : 2 ^ 31 ≤ x.bits.toNat
    · rw [decide_eq_true h, if_pos rfl]; omega
    · rw [decide_eq_false h, if_neg (by decide)]; omega
  have e2 := BitVec.eq_of_toNat_eq e
  revert e2
  generalize ofMagBits x.sign x.magBits = y
  intro e2
  cases x; cases y
  exact congrArg F32.mk e2

theorem mag_ofMagBits (n : Bool) {b : Nat} (h : b < 2 ^ 31) : (ofMagBits n b).mag = patternMag b := by
  rw [mag_eq_patternMag, magBits_ofMagBits n h]

theorem key_ofMagBits (n : Bool) {b : Nat} (h : b < 2 ^ 31) :
    (ofMagBits n b).key = if n then -(patternMag b : Int) else (patternMag b : Int) := by
  unfold key
  rw [sign_ofMagBits n h, mag_ofMagBits n h]

theorem natAbs_key (x : F32) : x.key.natAbs = x.mag := by
  unfold key; split <;> simp

theorem key_eq_zero_iff (x : F32) : x.key = 0 ↔ x.mag = 0 := by
  rw [← Int.natAbs_eq_zero, natAbs_key]

/-! ### Rounding a signed quotient -/

/-- The value nearest to `z / d` (units of 2^-149 on both sides); the infinity counts as the next power of two. -/
def rnd (z : Int) (d : Nat) : Int :=
  if z < 0 then -(patternMag (roundMag z.natAbs d) : Int) else (patternMag (roundMag z.natAbs d) : Int)

theorem rnd_zero (d : Nat) : rnd 0 d = 0 := by
  simp [rnd, roundMag_zero, patternMag_small]

theorem rnd_neg (z : Int) (d : Nat) : rnd (-z) d = -rnd z d := by
  unfold rnd
  rcases lt_trichotomy z 0 with h | rfl | h
  · rw [if_neg (by omega), if_pos h, Int.natAbs_neg]; omega
  · simp [roundMag_zero, patternMag_small]
  · rw [if_pos (by omega), if_neg (by omega), Int.natAbs_neg]

theorem rnd_nonneg {z : Int} (d : Nat) (h : 0 ≤ z) : 0 ≤ rnd z d := by
  unfold rnd; rw [if_neg (by omega)]; omega

theorem rnd_nonpos {z : Int} (d : Nat) (h : z ≤ 0) : rnd z d ≤ 0 := by
  have := rnd_nonneg d (z := -z) (by omega)
  rw [rnd_neg] at this; omega

/-- Rounding is monotone. -/
theorem rnd_mono {z z' : Int} {d d' : Nat} (hd : 0 < d) (hd' : 0 < d') (h : z * d' ≤ z' * d) :
    rnd z d ≤ rnd z' d' := by
  rcases lt_or_ge z 0 with hz | hz
  · rcases lt_or_ge z' 0 with hz' | hz'
    · unfold rnd
      rw [if_pos hz, if_pos hz', neg_le_neg_iff, Nat.cast_le, patternMag_le_iff]
      refine roundMag_mono hd' hd ?_
      zify
      rw [abs_of_neg hz, abs_of_neg hz']
      linarith
    · exact (rnd_nonpos d hz.le).trans (rnd_nonneg d' hz')
  · have hz' : 0 ≤ z' := by
      by_contra hc
      have h1 : z' * (d : Int) < 0 := Int.mul_neg_of_neg_of_pos (by omega) (by exact_mod_cast hd)
      have h2 : 0 ≤ z * (d' : Int) := by positivity
      omega
    unfold rnd
    rw [if_neg (by omega), if_neg (by omega), Nat.cast_le, patternMag_le_iff]
    refine roundMag_mono hd hd' ?_
    zify
    rwa [abs_of_nonneg hz, abs_of_nonneg hz']

/-- Rounding keeps what a binary32 value (or infinity) is. -/
theorem rnd_key {x : F32} (h : x.isNaN = false) : rnd x.key 1 = x.key := by
  rw [isNaN_false_iff] at h
  unfold rnd
  rw [natAbs_key, mag_eq_patternMag, roundMag_patternMag h, ← mag_eq_patternMag]
  unfold key
  split <;> split <;> omega

/-- A quotient at or below a value rounds to that value or below. -/
theorem rnd_le_key {z : Int} {d : Nat} {x : F32} (hd : 0 < d) (hx : x.isNaN = false) (h : z ≤ x.key * d) :
    rnd z d ≤ x.key := by
  rw [← rnd_key hx]
  exact rnd_mono hd (by norm_num) (by simpa using h)

/-- A quotient at or above a value rounds to that value or above. -/
theorem key_le_rnd {z : Int} {d : Nat} {x : F32} (hd : 0 < d) (hx : x.isNaN = false) (h : x.key * d ≤ z) :
    x.key ≤ rnd z d := by
  rw [← rnd_key hx]
  exact rnd_mono (by norm_num) hd (by simpa using h)

/-! ### Rounded results -/

theorem isNaN_round (n : Bool) (a d : Nat) : (round n a d).isNaN = false := by
  have := roundMag_le a d
  rw [isNaN_false_iff, round, magBits_ofMagBits _ (by omega)]
  exact this

theorem sign_round (n : Bool) (a d : Nat) : (round n a d).sign = n :=
  sign_ofMagBits n (by have := roundMag_le a d; omega)

theorem magBits_round (n : Bool) (a d : Nat) : (round n a d).magBits = roundMag a d :=
  magBits_ofMagBits n (by have := roundMag_le a d; omega)

theorem key_round (n : Bool) (a d : Nat) :
    (round n a d).key = if n then -(patternMag (roundMag a d) : Int) else (patternMag (roundMag a d) : Int) :=
  key_ofMagBits n (by have := roundMag_le a d; omega)

theorem key_roundInt (z : Int) : (roundInt z).key = rnd z 1 := by
  unfold roundInt rnd
  rw [key_round]
  by_cases h : z < 0 <;> simp [h]

theorem isNaN_roundInt (z : Int) : (roundInt z).isNaN = false := isNaN_round _ _ _

/-! ### The operations -/

theorem isNaN_zeroOf (n : Bool) : (zeroOf n).isNaN = false := by cases n <;> decide

theorem key_zeroOf (n : Bool) : (zeroOf n).key = 0 := by cases n <;> decide

theorem isNaN_neg (x : F32) : x.neg.isNaN = x.isNaN := by
  have e : x.neg.magBits = x.magBits := by
    unfold neg magBits
    rw [BitVec.toNat_xor, Nat.xor_mod_two_pow]
    simp
  rw [Bool.eq_iff_iff, isNaN_iff, isNaN_iff, e]

theorem neg_eq (x : F32) : x.neg = ofMagBits (!x.sign) x.magBits := by
  have e : x.neg.magBits = x.magBits := by
    unfold neg magBits
    rw [BitVec.toNat_xor, Nat.xor_mod_two_pow]
    simp
  have s : x.neg.sign = !x.sign := by
    unfold neg sign
    rw [BitVec.msb_xor]
    exact Bool.xor_true _
  rw [← e, ← s, ofMagBits_sign_magBits]

theorem magBits_neg (x : F32) : x.neg.magBits = x.magBits := by
  rw [neg_eq, magBits_ofMagBits _ (magBits_lt x)]

theorem sign_neg (x : F32) : x.neg.sign = !x.sign := by
  rw [neg_eq, sign_ofMagBits _ (magBits_lt x)]

theorem isFinite_neg (x : F32) : x.neg.isFinite = x.isFinite := by
  rw [Bool.eq_iff_iff, isFinite_iff, isFinite_iff, magBits_neg]

theorem key_neg (x : F32) : x.neg.key = -x.key := by
  unfold key
  rw [sign_neg, mag_eq_patternMag, mag_eq_patternMag, magBits_neg]
  cases x.sign <;> simp

theorem addNum_finite (s : Config.NanSource) {x y : F32} (hx : x.isFinite = true) (hy : y.isFinite = true) :
    (addNum s x y).isNaN = false ∧ (addNum s x y).key = rnd (x.key + y.key) 1 := by
  unfold addNum
  simp only [isInf_of_isFinite hx, isInf_of_isFinite hy, Bool.false_eq_true, if_false]
  split
  · rename_i h
    rw [← key_eq_zero_iff, ← key_eq_zero_iff] at h
    rw [h.1, h.2, add_zero, rnd_zero]
    exact ⟨isNaN_zeroOf _, key_zeroOf _⟩
  · exact ⟨isNaN_roundInt _, key_roundInt _⟩

/-- The sum of two finite values is the exact sum, rounded. -/
theorem add_finite {x y : F32} (hx : x.isFinite = true) (hy : y.isFinite = true) :
    (add x y).isNaN = false ∧ (add x y).key = rnd (x.key + y.key) 1 := by
  unfold add
  simp only [isNaN_of_isFinite hx, isNaN_of_isFinite hy, Bool.or_self, Bool.false_eq_true, if_false]
  exact addNum_finite .add hx hy

/-- The difference of two finite values is the exact difference, rounded. -/
theorem sub_finite {x y : F32} (hx : x.isFinite = true) (hy : y.isFinite = true) :
    (sub x y).isNaN = false ∧ (sub x y).key = rnd (x.key - y.key) 1 := by
  unfold sub
  simp only [isNaN_of_isFinite hx, isNaN_of_isFinite hy, Bool.or_self, Bool.false_eq_true, if_false]
  have := addNum_finite .sub hx (y := y.neg) (by rwa [isFinite_neg])
  rwa [key_neg, ← sub_eq_add_neg] at this

theorem key_round_signed (n : Bool) (a d : Nat) :
    (round n a d).key = rnd (if n then -(a : Int) else (a : Int)) d := by
  rw [key_round]
  unfold rnd
  cases n with
  | false =>
    simp only [Bool.false_eq_true, if_false, Int.natAbs_natCast]
    rw [if_neg (by omega)]
  | true =>
    simp only [if_true, Int.natAbs_neg, Int.natAbs_natCast]
    rcases Nat.eq_zero_or_pos a with rfl | ha
    · simp [roundMag_zero, patternMag_small]
    · rw [if_pos (by omega)]

theorem key_mul_key (x y : F32) :
    x.key * y.key = if (x.sign != y.sign) then -((x.mag * y.mag : Nat) : Int) else ((x.mag * y.mag : Nat) : Int) := by
  unfold key
  cases x.sign <;> cases y.sign <;> simp

/-- The product of two finite values is the exact product, rounded. -/
theorem mul_finite {x y : F32} (hx : x.isFinite = true) (hy : y.isFinite = true) :
    (mul x y).isNaN = false ∧ (mul x y).key = rnd (x.key * y.key) (2 ^ 149) := by
  unfold mul
  simp only [isNaN_of_isFinite hx, isNaN_of_isFinite hy, isInf_of_isFinite hx, isInf_of_isFinite hy, Bool.or_self,
    Bool.false_and, Bool.false_eq_true, if_false]
  refine ⟨isNaN_round _ _ _, ?_⟩
  rw [key_round_signed, key_mul_key]

/-- The quotient of a finite value by a positive finite value is the exact quotient, rounded. -/
theorem div_finite {x y : F32} (hx : x.isFinite = true) (hy : y.isFinite = true) (h0 : 0 < y.key) :
    (div x y).isNaN = false ∧ (div x y).key = rnd (x.key * 2 ^ 149) y.mag := by
  have hm : y.mag ≠ 0 := by rw [ne_eq, ← key_eq_zero_iff]; omega
  have hs : y.sign = false := by
    unfold key at h0
    by_contra hc
    simp only [Bool.not_eq_false] at hc
    rw [hc] at h0
    simp at h0
    omega
  unfold div
  simp only [isNaN_of_isFinite hx, isNaN_of_isFinite hy, isInf_of_isFinite hx, isInf_of_isFinite hy, Bool.or_self,
    Bool.false_and, Bool.false_eq_true, if_false, beq_iff_eq, hm, Bool.and_eq_true, and_false, Bool.false_or, hs]
  refine ⟨isNaN_round _ _ _, ?_⟩
  rw [key_round_signed]
  congr 1
  unfold key
  cases x.sign <;> simp

/-- `f32(n)` is the integer, rounded. -/
theorem ofInt_spec (n : Int) : (ofInt n).isNaN = false ∧ (ofInt n).key = rnd (n * 2 ^ 149) 1 := by
  unfold ofInt
  refine ⟨isNaN_round _ _ _, ?_⟩
  rw [key_round_signed]
  congr 1
  by_cases h : n < 0
  · simp only [h, decide_true, if_true]
    push_cast
    rw [abs_of_neg h]; ring
  · simp only [h, decide_false]
    simp only [Bool.false_eq_true, if_false]
    push_cast
    rw [abs_of_nonneg (by omega)]

/-! ### Comparisons -/

theorem lt_iff (x y : F32) : lt x y = true ↔ x.isNaN = false ∧ y.isNaN = false ∧ x.key < y.key := by
  simp [lt, and_assoc]

theorem le_iff (x y : F32) : le x y = true ↔ x.isNaN = false ∧ y.isNaN = false ∧ x.key ≤ y.key := by
  simp [le, and_assoc]

theorem isFinite_iff_mag (x : F32) : x.isFinite = true ↔ x.mag < patternMag 0x7F800000 := by
  rw [isFinite_iff, mag_eq_patternMag, patternMag_lt_iff]

/-- A value that is no NaN and lies between two finite values is finite. -/
theorem isFinite_of_between {x a b : F32} (ha : a.isFinite = true) (hb : b.isFinite = true)
    (h1 : a.key ≤ x.key) (h2 : x.key ≤ b.key) : x.isFinite = true := by
  rw [isFinite_iff_mag, ← natAbs_key] at ha hb ⊢
  omega

end Sys2Proof.F32
end

