-- ==== Sys2Proof/Laws/Decode.lean ====
section
/-!
SUPPORT. The fields of a command word, the identifiers' codes, and what the decoder answers, said once.
-/

namespace Sys2Proof

/-! ### Fields -/

/-- A command word as a number. -/
theorem toNat_commandWord (o v p : BitVec 4) :
    (commandWord o v p).toNat = ((o.toNat * 16 + v.toNat) * 16 + p.toNat) * 1048576 := by
  unfold commandWord
  rw [BitVec.toNat_append, BitVec.toNat_append, BitVec.toNat_append, ← Nat.shiftLeft_add_eq_or_of_lt v.isLt,
    ← Nat.shiftLeft_add_eq_or_of_lt p.isLt, ← Nat.shiftLeft_add_eq_or_of_lt (0#20).isLt]
  simp only [Nat.shiftLeft_eq, BitVec.toNat_ofNat]
  norm_num

/-- The fields of a command word as numbers (rule R102). -/
theorem toNat_fields (cw : Word) :
    (opField cw).toNat = cw.toNat / 268435456 % 16 ∧ (voiceField cw).toNat = cw.toNat / 16777216 % 16
      ∧ (paramField cw).toNat = cw.toNat / 1048576 % 16 ∧ (rsvField cw).toNat = cw.toNat % 1048576 := by
  unfold opField voiceField paramField rsvField
  simp only [BitVec.extractLsb'_toNat, Nat.shiftRight_eq_div_pow]
  norm_num

@[simp] theorem opField_commandWord (o v p : BitVec 4) : opField (commandWord o v p) = o := by
  apply BitVec.eq_of_toNat_eq
  rw [(toNat_fields _).1, toNat_commandWord]
  omega

@[simp] theorem voiceField_commandWord (o v p : BitVec 4) : voiceField (commandWord o v p) = v := by
  apply BitVec.eq_of_toNat_eq
  rw [(toNat_fields _).2.1, toNat_commandWord]
  omega

@[simp] theorem paramField_commandWord (o v p : BitVec 4) : paramField (commandWord o v p) = p := by
  apply BitVec.eq_of_toNat_eq
  rw [(toNat_fields _).2.2.1, toNat_commandWord]
  omega

@[simp] theorem rsvField_commandWord (o v p : BitVec 4) : rsvField (commandWord o v p) = 0#20 := by
  apply BitVec.eq_of_toNat_eq
  rw [(toNat_fields _).2.2.2, toNat_commandWord, BitVec.toNat_ofNat]
  omega

/-- A command word whose RSV field is 0 is made of its three other fields. -/
theorem commandWord_fields {cw : Word} (h : rsvField cw = 0#20) :
    commandWord (opField cw) (voiceField cw) (paramField cw) = cw := by
  have h' := congrArg BitVec.toNat h
  have f := toNat_fields cw
  rw [f.2.2.2, BitVec.toNat_ofNat] at h'
  apply BitVec.eq_of_toNat_eq
  rw [toNat_commandWord, f.1, f.2.1, f.2.2.1]
  have := cw.isLt
  omega

/-! ### Identifiers -/

@[simp] theorem Op.ofCode_code (o : Op) : Op.ofCode o.code = some o := by cases o <;> rfl

@[simp] theorem Voice.ofCode_code (v : Voice) : Voice.ofCode v.code = some v := by cases v <;> rfl

@[simp] theorem Param.ofCode_code (p : Param) : Param.ofCode p.code = some p := by cases p <;> rfl

theorem Op.code_of_ofCode {c : BitVec 4} {o : Op} (h : Op.ofCode c = some o) : o.code = c := by
  simpa using List.find?_some h

theorem Voice.code_of_ofCode {c : BitVec 4} {v : Voice} (h : Voice.ofCode c = some v) : v.code = c := by
  simpa using List.find?_some h

theorem Param.code_of_ofCode {c : BitVec 4} {p : Param} (h : Param.ofCode c = some p) : p.code = c := by
  simpa using List.find?_some h

@[simp] theorem Instr.op_port (i : Instr) : i.op.port = i.port := by cases i <;> rfl

/-! ### The decoder -/

/-- On a command's own port and word, only the checks of its operands are left (rule R108). -/
theorem decode_cw (i : Instr) (dw : Word) : decode i.port i.cw dw = decodeOperands i.op i.cw dw := by
  cases i <;> simp [decode, Instr.cw, Instr.op, Instr.port, Op.port, Op.voiceMustBeZero, Op.paramMustBeZero]

/-- What the decoder can accept, said once: the checks (1) to (3) of rule R108 passed, and the operands decoded. -/
theorem decode_ok {port : Port} {cw dw : Word} {i : Instr} (h : decode port cw dw = .ok i) :
    ∃ op, opField cw = op.code ∧ op.port = port ∧ rsvField cw = 0#20
      ∧ (op.voiceMustBeZero = true → voiceField cw = 0) ∧ (op.paramMustBeZero = true → paramField cw = 0)
      ∧ decodeOperands op cw dw = .ok i := by
  unfold decode at h
  split at h
  · cases h
  · rename_i op hop
    split at h
    · cases h
    · rename_i h1
      split at h
      · cases h
      · rename_i h2
        split at h
        · cases h
        · rename_i h3
          simp only [ne_eq, not_not] at h1 h2
          push Not at h3
          exact ⟨op, (Op.code_of_ofCode hop).symm, h1, h2, h3.1, h3.2, h⟩

/-- What the last check answers (rule R317). -/
theorem withFinite_cases (dw : Word) (f : F32 → Instr) :
    ((F32.mk dw).isFinite = true ∧ withFinite dw f = .ok (f ⟨dw⟩))
    ∨ ((F32.mk dw).isFinite = false ∧ withFinite dw f = .error .notFinite) := by
  unfold withFinite
  rcases h : (F32.mk dw).isFinite with _ | _
  · exact .inr ⟨rfl, if_neg (by decide)⟩
  · exact .inl ⟨rfl, if_pos rfl⟩

theorem decodeOperands_trig (v : Voice) (dw : Word) (p : BitVec 4) :
    decodeOperands .trig (commandWord Op.trig.code v.code p) dw = withFinite dw (.trig v) := by
  simp [decodeOperands]

theorem decodeOperands_setp {v : Voice} {p : Param} (h : (regOf v p).isSome = true) (dw : Word) :
    decodeOperands .setp (commandWord Op.setp.code v.code p.code) dw = withFinite dw (.setp v p) := by
  simp [decodeOperands, h]

theorem decodeOperands_setp_no_register {v : Voice} {p : Param} (h : (regOf v p).isSome = false) (dw : Word) :
    decodeOperands .setp (commandWord Op.setp.code v.code p.code) dw = .error .noSuchRegister := by
  simp [decodeOperands, h]

end Sys2Proof
end

