-- ==== Sys2Proof/Laws/Reference.lean ====
section
/-!
SUPPORT. The reference instance's operations are the binary32 ones, its constants' patterns, and what a clamp answers,
said once.  Pass from `reference.mul` to `F32.mul` (and the like) by rewriting with these lemmas: where `rfl` has to
find the two equal under literal operands, the kernel evaluates them and can run out of recursion depth.  So their
proofs are equalities of functions, applied: `simp` then records each rewrite instead of leaving it to the kernel.
-/

namespace Sys2Proof

/-! ### The operations of the reference instance -/

@[simp] theorem reference_add (a b : F32) : reference.add a b = F32.add a b :=
  congrFun (congrFun (show reference.add = F32.add from rfl) a) b

@[simp] theorem reference_sub (a b : F32) : reference.sub a b = F32.sub a b :=
  congrFun (congrFun (show reference.sub = F32.sub from rfl) a) b

@[simp] theorem reference_mul (a b : F32) : reference.mul a b = F32.mul a b :=
  congrFun (congrFun (show reference.mul = F32.mul from rfl) a) b

@[simp] theorem reference_div (a b : F32) : reference.div a b = F32.div a b :=
  congrFun (congrFun (show reference.div = F32.div from rfl) a) b

@[simp] theorem reference_lt (a b : F32) : reference.lt a b = F32.lt a b :=
  congrFun (congrFun (show reference.lt = F32.lt from rfl) a) b

@[simp] theorem reference_le (a b : F32) : reference.le a b = F32.le a b :=
  congrFun (congrFun (show reference.le = F32.le from rfl) a) b

@[simp] theorem reference_ofWord (n : Word) : reference.ofWord n = F32.ofInt n.toNat :=
  congrFun (show reference.ofWord = fun n : Word => F32.ofInt n.toNat from rfl) n

@[simp] theorem reference_ofInt (n : Int) : reference.ofInt n = F32.ofInt n :=
  congrFun (show reference.ofInt = F32.ofInt from rfl) n

@[simp] theorem reference_cfg : reference.cfg = referenceCfg := rfl

@[simp] theorem reference_frt (v : Voice) : reference.frt v = true := rfl

@[simp] theorem reference_fs : reference.fs = F32.lit 32768 0 := rfl

@[simp] theorem reference_toInt16 (x : F32) : reference.num.toInt16 x = F32.toInt16 x :=
  congrFun (show reference.num.toInt16 = F32.toInt16 from rfl) x

theorem reference_max (a b : F32) : reference.max a b = if F32.lt a b then b else a := rfl

theorem reference_min (a b : F32) : reference.min a b = if F32.lt b a then b else a := rfl

theorem reference_clamp (x lo hi : F32) : reference.clamp x lo hi = reference.min (reference.max x lo) hi := rfl

/-! ### Patterns of the constants (rules R13, R20) -/

theorem lit_zero : F32.lit 0 0 = F32.zero := by decide

theorem lit_one : F32.lit 1 0 = F32.one := by decide

theorem lit_fs : F32.lit 32768 0 = ⟨0x47000000#32⟩ := by decide +kernel

theorem freqMax_eq : reference.freqMax = ⟨0x46666666#32⟩ := by decide +kernel

theorem tsMs_eq : reference.tsMs = ⟨0x3CFA0000#32⟩ := by decide +kernel

theorem angle_freqMax_eq : reference.angle reference.freqMax = ⟨0x4034F4AB#32⟩ := by decide +kernel

/-! ### Order -/

namespace F32

theorem lt_false_iff {x y : F32} (hx : x.isNaN = false) (hy : y.isNaN = false) : lt x y = false ↔ y.key ≤ x.key := by
  rw [← Bool.not_eq_true, lt_iff]; simp [hx, hy]

theorem le_false_iff {x y : F32} (hx : x.isNaN = false) (hy : y.isNaN = false) : le x y = false ↔ y.key < x.key := by
  rw [← Bool.not_eq_true, le_iff]; simp [hx, hy]

theorem le_refl {x : F32} (hx : x.isNaN = false) : le x x = true := by simp [le_iff, hx]

theorem le_trans {x y z : F32} (h1 : le x y = true) (h2 : le y z = true) : le x z = true := by
  rw [le_iff] at *; exact ⟨h1.1, h2.2.1, h1.2.2.trans h2.2.2⟩

theorem le_of_lt {x y : F32} (h : lt x y = true) : le x y = true := by
  rw [lt_iff] at h; rw [le_iff]; exact ⟨h.1, h.2.1, h.2.2.le⟩

end F32

/-- What a clamp answers for a value that is no NaN: the bound it passes, or the value itself (rule R14). -/
theorem clamp_cases (x : F32) {lo hi : F32} (h : F32.le lo hi = true) (hx : x.isNaN = false) :
    (F32.lt x lo = true ∧ reference.clamp x lo hi = lo)
    ∨ (F32.lt hi x = true ∧ reference.clamp x lo hi = hi)
    ∨ (F32.le lo x = true ∧ F32.le x hi = true ∧ reference.clamp x lo hi = x) := by
  have h' := (F32.le_iff _ _).1 h
  rw [reference_clamp, reference_max]
  rcases h1 : F32.lt x lo with _ | _
  · rw [F32.lt_false_iff hx h'.1] at h1
    have hlo : F32.le lo x = true := (F32.le_iff _ _).2 ⟨h'.1, hx, h1⟩
    simp only [Bool.false_eq_true, if_false, reference_min]
    rcases h2 : F32.lt hi x with _ | _
    · rw [F32.lt_false_iff h'.2.1 hx] at h2
      exact .inr (.inr ⟨hlo, (F32.le_iff _ _).2 ⟨hx, h'.2.1, h2⟩, by simp⟩)
    · exact .inr (.inl ⟨by simp, by simp⟩)
  · have h2 : F32.lt hi lo = false := by rw [F32.lt_false_iff h'.2.1 h'.1]; exact h'.2.2
    simp [reference_min, h2]

/-- A clamp's result is in the range. -/
theorem clamp_within (x : F32) {lo hi : F32} (h : F32.le lo hi = true) (hx : x.isNaN = false) :
    F32.le lo (reference.clamp x lo hi) = true ∧ F32.le (reference.clamp x lo hi) hi = true := by
  have h' := (F32.le_iff _ _).1 h
  rcases clamp_cases x h hx with ⟨-, e⟩ | ⟨-, e⟩ | ⟨h1, h2, e⟩ <;> rw [e]
  · exact ⟨F32.le_refl h'.1, h⟩
  · exact ⟨h, F32.le_refl h'.2.1⟩
  · exact ⟨h1, h2⟩

/-- A clamp keeps a value of the range. -/
theorem clamp_eq_self {x lo hi : F32} (h1 : F32.le lo x = true) (h2 : F32.le x hi = true) :
    reference.clamp x lo hi = x := by
  have a := (F32.le_iff _ _).1 h1
  have b := (F32.le_iff _ _).1 h2
  have e1 : F32.lt x lo = false := by rw [F32.lt_false_iff a.2.1 a.1]; exact a.2.2
  have e2 : F32.lt hi x = false := by rw [F32.lt_false_iff b.2.1 b.1]; exact b.2.2
  rw [reference_clamp, reference_max, e1]
  simp [reference_min, e2]

/-- A clamp is monotone. -/
theorem clamp_mono {x y lo hi : F32} (h : F32.le lo hi = true) (hx : x.isNaN = false) (hy : y.isNaN = false)
    (hxy : x.key ≤ y.key) : (reference.clamp x lo hi).key ≤ (reference.clamp y lo hi).key := by
  have h' := ((F32.le_iff _ _).1 h).2.2
  rcases clamp_cases x h hx with ⟨a, e⟩ | ⟨a, e⟩ | ⟨a, a', e⟩ <;> rw [e]
  · exact ((F32.le_iff _ _).1 (clamp_within y h hy).1).2.2
  · have a := ((F32.lt_iff _ _).1 a).2.2
    rcases clamp_cases y h hy with ⟨b, e'⟩ | ⟨b, e'⟩ | ⟨b, b', e'⟩ <;> rw [e']
    · have b := ((F32.lt_iff _ _).1 b).2.2
      omega
    · have b := ((F32.le_iff _ _).1 b').2.2
      omega
  · have a := ((F32.le_iff _ _).1 a).2.2
    have a' := ((F32.le_iff _ _).1 a').2.2
    rcases clamp_cases y h hy with ⟨b, e'⟩ | ⟨b, e'⟩ | ⟨b, b', e'⟩ <;> rw [e']
    · have b := ((F32.lt_iff _ _).1 b).2.2
      omega
    · exact a'
    · exact hxy

end Sys2Proof
end

