-- ==== Sys2Proof/Laws/Order.lean ====
section
/-!
SUPPORT. The binary32 operations are monotone, exact on short multiples of a power of two, and determined by their value
where it is not zero.
-/

namespace Sys2Proof.F32

/-! ### Patterns and values -/

theorem key_zero : zero.key = 0 := by decide

theorem key_one : one.key = 2 ^ 149 := by decide +kernel

theorem key_negOne : negOne.key = -2 ^ 149 := by decide +kernel

theorem key_twoPi : twoPi.key = 13176795 * 2 ^ 128 := by decide +kernel

/-- Two values that are equal and not zero have one pattern. -/
theorem eq_of_key_eq {x y : F32} (h : x.key = y.key) (h0 : x.key ≠ 0) : x = y := by
  have hm : x.mag = y.mag := by rw [← natAbs_key, ← natAbs_key, h]
  have hb : x.magBits = y.magBits := by
    rw [mag_eq_patternMag, mag_eq_patternMag, patternMag_inj] at hm; exact hm
  have h1 : x.mag ≠ 0 := by rw [ne_eq, ← key_eq_zero_iff]; exact h0
  have hs : x.sign = y.sign := by
    unfold key at h
    rw [← hm] at h
    split at h <;> split at h <;> first | omega | simp_all
  rw [← ofMagBits_sign_magBits x, ← ofMagBits_sign_magBits y, hb, hs]

/-! ### Monotone operations -/

theorem add_mono {a b c d : F32} (ha : a.isFinite = true) (hb : b.isFinite = true) (hc : c.isFinite = true)
    (hd : d.isFinite = true) (h1 : a.key ≤ c.key) (h2 : b.key ≤ d.key) : (add a b).key ≤ (add c d).key := by
  rw [(add_finite ha hb).2, (add_finite hc hd).2]
  exact rnd_mono (by norm_num) (by norm_num) (by omega)

theorem sub_mono {a b c d : F32} (ha : a.isFinite = true) (hb : b.isFinite = true) (hc : c.isFinite = true)
    (hd : d.isFinite = true) (h1 : a.key ≤ c.key) (h2 : d.key ≤ b.key) : (sub a b).key ≤ (sub c d).key := by
  rw [(sub_finite ha hb).2, (sub_finite hc hd).2]
  exact rnd_mono (by norm_num) (by norm_num) (by omega)

theorem mul_mono {a b c d : F32} (ha : a.isFinite = true) (hb : b.isFinite = true) (hc : c.isFinite = true)
    (hd : d.isFinite = true) (h1 : a.key ≤ c.key) (h2 : b.key ≤ d.key) (h3 : 0 ≤ c.key) (h4 : 0 ≤ b.key) :
    (mul a b).key ≤ (mul c d).key := by
  rw [(mul_finite ha hb).2, (mul_finite hc hd).2]
  refine rnd_mono (by positivity) (by positivity) ?_
  exact mul_le_mul_of_nonneg_right (mul_le_mul h1 h2 h4 h3) (by positivity)

/-- A product by a factor that is not negative is monotone in the other factor. -/
theorem mul_mono_right {c x y : F32} (hc : c.isFinite = true) (hx : x.isFinite = true) (hy : y.isFinite = true)
    (h0 : 0 ≤ c.key) (h : x.key ≤ y.key) : (mul c x).key ≤ (mul c y).key := by
  rw [(mul_finite hc hx).2, (mul_finite hc hy).2]
  refine rnd_mono (by positivity) (by positivity) ?_
  exact mul_le_mul_of_nonneg_right (mul_le_mul_of_nonneg_left h h0) (by positivity)

theorem mul_mono_left {c x y : F32} (hc : c.isFinite = true) (hx : x.isFinite = true) (hy : y.isFinite = true)
    (h0 : 0 ≤ c.key) (h : x.key ≤ y.key) : (mul x c).key ≤ (mul y c).key := by
  rw [(mul_finite hx hc).2, (mul_finite hy hc).2]
  refine rnd_mono (by positivity) (by positivity) ?_
  exact mul_le_mul_of_nonneg_right (mul_le_mul_of_nonneg_right h h0) (by positivity)

theorem div_mono {a b c : F32} (ha : a.isFinite = true) (hb : b.isFinite = true) (hc : c.isFinite = true)
    (h0 : 0 < c.key) (h1 : a.key ≤ b.key) : (div a c).key ≤ (div b c).key := by
  rw [(div_finite ha hc h0).2, (div_finite hb hc h0).2]
  have hm : 0 < c.mag := by rw [← natAbs_key]; omega
  refine rnd_mono hm hm ?_
  exact mul_le_mul_of_nonneg_right (mul_le_mul_of_nonneg_right h1 (by positivity)) (by positivity)

/-! ### Exactness -/

/-- A multiple of a power of two by less than 2^24 is the magnitude of a pattern. -/
theorem exists_patternMag {m : Nat} (hm : m < 2 ^ 24) (k : Nat) : ∃ b, patternMag b = m * 2 ^ k := by
  induction k generalizing m with
  | zero =>
    rcases Nat.lt_or_ge m (2 ^ 23) with h | h
    · exact ⟨m, by rw [patternMag_small h]; simp⟩
    · refine ⟨m, ?_⟩
      unfold patternMag
      rw [if_neg (by omega), show m / 2 ^ 23 - 1 = 0 by omega]
      omega
  | succ k ih =>
    rcases Nat.lt_or_ge m (2 ^ 23) with h | h
    · obtain ⟨b, hb⟩ := ih (m := m * 2) (by omega)
      exact ⟨b, by rw [hb, pow_succ]; ring⟩
    · refine ⟨(k + 2) * 2 ^ 23 + (m - 2 ^ 23), ?_⟩
      unfold patternMag
      rw [if_neg (by omega), show ((k + 2) * 2 ^ 23 + (m - 2 ^ 23)) / 2 ^ 23 - 1 = k + 1 by omega,
        show 2 ^ 23 + ((k + 2) * 2 ^ 23 + (m - 2 ^ 23)) % 2 ^ 23 = m by omega]

/-- Such a multiple, if it is finite, is rounded to itself. -/
theorem rnd_exact {z : Int} {m k : Nat} (hz : z.natAbs = m * 2 ^ k) (hm : m < 2 ^ 24)
    (h : m * 2 ^ k < patternMag 0x7F800000) : rnd z 1 = z := by
  obtain ⟨b, hb⟩ := exists_patternMag hm k
  have hlt : b < 0x7F800000 := by rw [← hb, patternMag_lt_iff] at h; exact h
  unfold rnd
  rw [hz, ← hb, roundMag_patternMag (by omega), hb, ← hz]
  split <;> omega

/-- Rounding a quotient depends on the quotient only. -/
theorem rnd_scale (z : Int) {d c : Nat} (hd : 0 < d) (hc : 0 < c) : rnd (z * c) (d * c) = rnd z d := by
  refine le_antisymm ?_ ?_
  · refine rnd_mono (by positivity) hd ?_
    push_cast; exact le_of_eq (by ring)
  · refine rnd_mono hd (by positivity) ?_
    push_cast; exact le_of_eq (by ring)

/-! ### Ranges -/

/-- A value between two finite values is finite. -/
theorem isFinite_of_le {lo hi x : F32} (h1 : lo.isFinite = true) (h2 : hi.isFinite = true) (hl : le lo x = true)
    (hh : le x hi = true) : x.isFinite = true :=
  isFinite_of_between h1 h2 ((le_iff _ _).1 hl).2.2 ((le_iff _ _).1 hh).2.2

/-- `1 - x` is in [0, 1] where `x` is. -/
theorem one_sub_range {x : F32} (h1 : le zero x = true) (h2 : le x one = true) :
    le zero (sub one x) = true ∧ le (sub one x) one = true := by
  have f : x.isFinite = true := isFinite_of_le (by decide) (by decide) h1 h2
  have o : one.isFinite = true := by decide
  have a := sub_mono o o o f le_rfl ((le_iff _ _).1 h2).2.2
  have b := sub_mono o f o (show zero.isFinite = true by decide) le_rfl ((le_iff _ _).1 h1).2.2
  have za : (sub one one).key = zero.key := by decide +kernel
  have zb : (sub one zero).key = one.key := by decide +kernel
  have n := (sub_finite o f).1
  exact ⟨(le_iff _ _).2 ⟨by decide, n, by rw [← za]; exact a⟩, (le_iff _ _).2 ⟨n, by decide, by rw [← zb]; exact b⟩⟩

/-- A product of a value that is not negative by a factor in [0, 1] is between 0 and that value. -/
theorem mul_range {x y : F32} (hx : x.isFinite = true) (h0 : 0 ≤ x.key) (h1 : le zero y = true)
    (h2 : le y one = true) : le zero (mul x y) = true ∧ le (mul x y) x = true := by
  have f : y.isFinite = true := isFinite_of_le (by decide) (by decide) h1 h2
  have y0 : 0 ≤ y.key := by rw [← key_zero]; exact ((le_iff _ _).1 h1).2.2
  have m := mul_finite hx f
  have e : rnd (x.key * one.key) (2 ^ 149) = x.key := by
    rw [key_one]
    have := rnd_scale x.key (d := 1) (c := 2 ^ 149) (by norm_num) (by positivity)
    rw [one_mul] at this
    rw [Nat.cast_pow, Nat.cast_ofNat] at this
    rw [this, rnd_key (isNaN_of_isFinite hx)]
  have a := mul_mono_right hx f (show one.isFinite = true by decide) h0 ((le_iff _ _).1 h2).2.2
  rw [(mul_finite hx (show one.isFinite = true by decide)).2, e] at a
  refine ⟨(le_iff _ _).2 ⟨by decide, m.1, ?_⟩, (le_iff _ _).2 ⟨m.1, isNaN_of_isFinite hx, a⟩⟩
  rw [key_zero, m.2]
  exact rnd_nonneg _ (mul_nonneg h0 y0)

end Sys2Proof.F32
end

