-- ==== Sys2Proof/Laws/Envelope.lean ====
section
/-!
SUPPORT. The envelope, said once: the time of an age is finite, not negative and monotone; what ENV_LEVEL and ENV_DONE
answer in each phase.
-/

namespace Sys2Proof

open F32

/-- The time of an age is the age, rounded, times TS_MS (rule R160). -/
theorem timeOf_eq (a : Word) : reference.timeOf a = mul (ofInt a.toNat) ⟨0x3CFA0000#32⟩ := by
  unfold Params.timeOf; rw [reference_mul, reference_ofWord, tsMs_eq]

theorem ofInt_nat_finite {n : Nat} (h : n < 2 ^ 32) :
    (ofInt n).isFinite = true ∧ 0 ≤ (ofInt n).key ∧ (ofInt n).key ≤ (⟨0x4F800000⟩ : F32).key := by
  have o := ofInt_spec n
  have k1 : (⟨0x4F800000⟩ : F32).key = ((2 ^ 32 : Nat) : Int) * 2 ^ 149 := by decide +kernel
  have a : (ofInt n).key ≤ (⟨0x4F800000⟩ : F32).key := by
    rw [o.2]
    refine rnd_le_key (by norm_num) (by decide) ?_
    rw [k1, Nat.cast_one, mul_one]
    exact mul_le_mul_of_nonneg_right (Int.ofNat_le.mpr h.le) (Int.pow_nonneg (by norm_num))
  have b : 0 ≤ (ofInt n).key := by
    rw [o.2]; exact rnd_nonneg _ (mul_nonneg (Int.natCast_nonneg n) (pow_nonneg (by norm_num) _))
  exact ⟨isFinite_of_between (a := zero) (b := ⟨0x4F800000⟩) (by decide) (by decide) (by rw [key_zero]; exact b) a, b, a⟩

/-- A time is finite, not negative, and at most 2^17 s. -/
theorem timeOf_range (a : Word) : (reference.timeOf a).isFinite = true ∧ 0 ≤ (reference.timeOf a).key
    ∧ (reference.timeOf a).key ≤ (⟨0x4CFA0000#32⟩ : F32).key := by
  obtain ⟨f, b, k⟩ := ofInt_nat_finite a.isLt
  rw [timeOf_eq]
  generalize ofInt (a.toNat : Int) = x at *
  have hc : (⟨0x3CFA0000#32⟩ : F32).isFinite = true := by decide
  have ck : (0:Int) ≤ (⟨0x3CFA0000#32⟩ : F32).key := by decide
  have hm : mul ⟨0x4F800000⟩ ⟨0x3CFA0000#32⟩ = ⟨0x4CFA0000#32⟩ := by decide +kernel
  have hmf : (⟨0x4CFA0000#32⟩ : F32).isFinite = true := by decide
  have h4 : (⟨0x4F800000⟩ : F32).isFinite = true := by decide
  have m1 := mul_mono_left hc f h4 ck k
  rw [hm] at m1
  have m0 : 0 ≤ (mul x ⟨0x3CFA0000#32⟩).key := by
    rw [(mul_finite f hc).2]; exact rnd_nonneg _ (mul_nonneg b ck)
  exact ⟨isFinite_of_between (a := zero) (by decide) hmf (by rw [key_zero]; exact m0) m1, m0, m1⟩

/-- A later age has a later time. -/
theorem timeOf_mono {a b : Word} (h : a ≤ b) : (reference.timeOf a).key ≤ (reference.timeOf b).key := by
  have fa := ofInt_nat_finite a.isLt
  have fb := ofInt_nat_finite b.isLt
  rw [timeOf_eq, timeOf_eq]
  refine mul_mono_left (by decide) fa.1 fb.1 (by decide) ?_
  rw [(ofInt_spec _).2, (ofInt_spec _).2]
  refine rnd_mono (by norm_num) (by norm_num) ?_
  rw [Nat.cast_one, mul_one, mul_one]
  exact mul_le_mul_of_nonneg_right (Int.ofNat_le.mpr h) (pow_nonneg (by norm_num) _)

theorem Env.time_eq (e : Env) : e.time reference = reference.timeOf e.age := rfl

/-! ### ENV_LEVEL in each phase (rule R161) -/

theorem Env.level_inactive (P : Params) {e : Env} (h : e.isActive = false) : e.level P = zero := by
  unfold Env.level; simp [h]

theorem Env.level_attack {e : Env} (h : e.isActive = true) (ht : lt (e.time reference) e.attackMs = true) :
    e.level reference = div (e.time reference) e.attackMs := by
  unfold Env.level; simp only [h, if_true, reference_lt, ht, reference_div]

theorem Env.level_decay {e : Env} (h : e.isActive = true) (ht : lt (e.time reference) e.attackMs = false)
    (h2 : lt (e.time reference) (add e.attackMs e.decayMs) = true) :
    e.level reference
      = sub one (mul (sub one e.sustain) (div (sub (e.time reference) e.attackMs) e.decayMs)) := by
  unfold Env.level
  simp only [h, if_true, reference_lt, ht, reference_add, h2, Bool.false_eq_true, if_false, reference_sub,
    reference_mul, reference_div]

theorem Env.level_sustain {e : Env} (h : e.isActive = true) (ht : lt (e.time reference) e.attackMs = false)
    (h2 : lt (e.time reference) (add e.attackMs e.decayMs) = false) : e.level reference = e.sustain := by
  unfold Env.level
  simp only [h, if_true, reference_lt, ht, reference_add, h2, Bool.false_eq_true, if_false]

/-- ENV_DONE of an active envelope (rule R162). -/
theorem Env.done_active {e : Env} (h : e.isActive = true) : e.done reference = true ↔
    le e.attackMs (e.time reference) = true ∧ le (e.level reference) thresh = true := by
  unfold Env.done
  simp only [h, if_true, Bool.and_eq_true, reference_le]

theorem Env.done_inactive (P : Params) {e : Env} (h : e.isActive = false) : e.done P = true := by
  unfold Env.done; simp [h]

end Sys2Proof
end

