-- ==== Sys2Proof/Laws/PerInstr.lean ====
section
/-! SUPPORT. What holds of every command as syntax, one lemma per constructor. -/

namespace Sys2Proof.Laws.Encoding

/-- The command word carries the operation and no reserved bit, the operation's port is the command's, a command that
ignores its data word is encoded with 0 there, and a well-formed one that reads it carries a finite value (rules R102
to R106, R317). -/
def Statement (i : Instr) : Prop :=
  opField i.cw = i.op.code ∧ rsvField i.cw = 0#20 ∧ i.op.port = i.port ∧ (i.readsData = false → i.dw = 0)
    ∧ (i.wellFormed = true → i.readsData = true → (F32.mk i.dw).isFinite = true)

theorem nop : Statement .nop := by simp [Statement, Instr.cw, Instr.op, Instr.dw, Instr.readsData, Op.port, Instr.port]

theorem trig (v : Voice) (val : F32) : Statement (.trig v val) := by
  simp [Statement, Instr.cw, Instr.op, Instr.dw, Instr.readsData, Instr.wellFormed, Op.port, Instr.port]

theorem setp (v : Voice) (p : Param) (val : F32) : Statement (.setp v p val) := by
  simp [Statement, Instr.cw, Instr.op, Instr.dw, Instr.readsData, Instr.wellFormed, Op.port, Instr.port]

theorem setmv (val : F32) : Statement (.setmv val) := by
  simp [Statement, Instr.cw, Instr.op, Instr.dw, Instr.readsData, Instr.wellFormed, Op.port, Instr.port]

theorem status : Statement .status := by
  simp [Statement, Instr.cw, Instr.op, Instr.dw, Instr.readsData, Op.port, Instr.port]

theorem mixrd : Statement .mixrd := by
  simp [Statement, Instr.cw, Instr.op, Instr.dw, Instr.readsData, Op.port, Instr.port]

theorem sample : Statement .sample := by
  simp [Statement, Instr.cw, Instr.op, Instr.dw, Instr.readsData, Op.port, Instr.port]

end Sys2Proof.Laws.Encoding
end

