-- ==== Sys2Proof/Laws/State.lean ====
section
/-!
SUPPORT. The small lemmas of the state updates: one per field per update, each true by unfolding the update once; then
what each command and each step can do, said once for any parameters and carried over to `exec` and `step`.
-/

namespace Sys2Proof.Machine.State

variable (s : State)

/-! ### `respond` -/

@[simp] theorem respond_mixer (p : Port) (w : Word) : (s.respond p w).mixer = s.mixer := rfl

@[simp] theorem respond_voices (p : Port) (w : Word) : (s.respond p w).voices = s.voices := rfl

@[simp] theorem respond_inbox (p : Port) (w : Word) : (s.respond p w).inbox = s.inbox := rfl

@[simp] theorem respond_out (p : Port) (w : Word) : (s.respond p w).out = ⟨p, w⟩ :: s.out := rfl

/-! ### `awaiting` -/

@[simp] theorem awaiting_mixer (rest : List Input) : (s.awaiting rest).mixer = s.mixer := rfl

@[simp] theorem awaiting_voices (rest : List Input) : (s.awaiting rest).voices = s.voices := rfl

@[simp] theorem awaiting_inbox (rest : List Input) : (s.awaiting rest).inbox = rest := rfl

@[simp] theorem awaiting_out (rest : List Input) : (s.awaiting rest).out = s.out := rfl

/-! ### `setErr` -/

@[simp] theorem setErr_mixer (b : Bool) : (s.setErr b).mixer = { s.mixer with cmdErr := b } := rfl

@[simp] theorem setErr_voices (b : Bool) : (s.setErr b).voices = s.voices := rfl

@[simp] theorem setErr_inbox (b : Bool) : (s.setErr b).inbox = s.inbox := rfl

@[simp] theorem setErr_out (b : Bool) : (s.setErr b).out = s.out := rfl

/-! ### `reject` -/

@[simp] theorem reject_mixer (p : Port) : (s.reject p).mixer = { s.mixer with cmdErr := true } := rfl

@[simp] theorem reject_voices (p : Port) : (s.reject p).voices = s.voices := rfl

@[simp] theorem reject_inbox (p : Port) : (s.reject p).inbox = s.inbox := rfl

@[simp] theorem reject_out (p : Port) : (s.reject p).out = ⟨p, 0#32⟩ :: s.out := rfl

/-! ### `resetBlock` -/

@[simp] theorem resetBlock_mixer (P : Params) : (s.resetBlock P).mixer = mixerReset P := rfl

@[simp] theorem resetBlock_voices (P : Params) : (s.resetBlock P).voices = voicesReset P := rfl

@[simp] theorem resetBlock_inbox (P : Params) : (s.resetBlock P).inbox = s.inbox := rfl

@[simp] theorem resetBlock_out (P : Params) : (s.resetBlock P).out = s.out := rfl

/-! ### `trigger` -/

@[simp] theorem trigger_mixer (P : Params) (v : Voice) (val : F32) : (s.trigger P v val).mixer = s.mixer := rfl

@[simp] theorem trigger_voices (P : Params) (v : Voice) (val : F32) : (s.trigger P v val).voices = triggerVoice P v val s.voices := rfl

@[simp] theorem trigger_inbox (P : Params) (v : Voice) (val : F32) : (s.trigger P v val).inbox = s.inbox := rfl

@[simp] theorem trigger_out (P : Params) (v : Voice) (val : F32) : (s.trigger P v val).out = s.out := rfl

/-! ### `writeReg` -/

@[simp] theorem writeReg_mixer (P : Params) (r : Reg) (val : F32) : (s.writeReg P r val).mixer = s.mixer := rfl

@[simp] theorem writeReg_voices (P : Params) (r : Reg) (val : F32) : (s.writeReg P r val).voices = Sys2Proof.Machine.writeReg P r val s.voices := rfl

@[simp] theorem writeReg_inbox (P : Params) (r : Reg) (val : F32) : (s.writeReg P r val).inbox = s.inbox := rfl

@[simp] theorem writeReg_out (P : Params) (r : Reg) (val : F32) : (s.writeReg P r val).out = s.out := rfl

/-! ### `setMaster` -/

@[simp] theorem setMaster_mixer (P : Params) (val : F32) : (s.setMaster P val).mixer = { s.mixer with master := P.clamp val F32.zero F32.one } := rfl

@[simp] theorem setMaster_voices (P : Params) (val : F32) : (s.setMaster P val).voices = s.voices := rfl

@[simp] theorem setMaster_inbox (P : Params) (val : F32) : (s.setMaster P val).inbox = s.inbox := rfl

@[simp] theorem setMaster_out (P : Params) (val : F32) : (s.setMaster P val).out = s.out := rfl

/-! ### `tick` -/

@[simp] theorem tick_mixer (P : Params) : (s.tick P).mixer = { s.mixer with mix := (s.runs P).mix P s.mixer.master, rng := (s.runs P).rng } := rfl

@[simp] theorem tick_voices (P : Params) : (s.tick P).voices = (s.runs P).voices := rfl

@[simp] theorem tick_inbox (P : Params) : (s.tick P).inbox = s.inbox := rfl

@[simp] theorem tick_out (P : Params) : (s.tick P).out = s.out := rfl

end Sys2Proof.Machine.State

namespace Sys2Proof.Machine

/-! ### The commands at any parameters, as equations -/

section AnyParameters

variable (P : Params) (s : State)

theorem execIn_nop : execIn P .nop s = .next (s.respond .control 0#32) := rfl

theorem execIn_trig (v : Voice) {val : F32} (h : val.isFinite = true) :
    execIn P (.trig v val) s = .next ((s.trigger P v val).respond .control 0#32) := if_pos h

theorem execIn_trig_not_finite (v : Voice) {val : F32} (h : val.isFinite = false) :
    execIn P (.trig v val) s = .next (s.reject .control) := if_neg (by simp [h])

theorem execIn_setp {v : Voice} {p : Param} {r : Reg} (hr : regOf v p = some r) {val : F32}
    (h : val.isFinite = true) :
    execIn P (.setp v p val) s = .next ((s.writeReg P r val).respond .control 0#32) := by
  simp [execIn, setpIn, hr, h]

theorem execIn_setp_no_register {v : Voice} {p : Param} (hr : regOf v p = none) (val : F32) :
    execIn P (.setp v p val) s = .next (s.reject .control) := by
  simp [execIn, setpIn, hr]

theorem execIn_setp_not_finite {v : Voice} {p : Param} {r : Reg} (hr : regOf v p = some r) {val : F32}
    (h : val.isFinite = false) : execIn P (.setp v p val) s = .next (s.reject .control) := by
  simp [execIn, setpIn, hr, h]

theorem execIn_setmv {val : F32} (h : val.isFinite = true) :
    execIn P (.setmv val) s = .next ((s.setMaster P val).respond .control 0#32) := if_pos h

theorem execIn_setmv_not_finite {val : F32} (h : val.isFinite = false) :
    execIn P (.setmv val) s = .next (s.reject .control) := if_neg (by simp [h])

theorem execIn_status : execIn P .status s = .next ((s.setErr false).respond .control (statusWord s)) := rfl

theorem execIn_mixrd : execIn P .mixrd s = .next (s.respond .control s.mixer.mix.bits) := rfl

theorem execIn_sample :
    execIn P .sample s
      = .next ((s.tick P).respond .audio (sampleWord P ((s.runs P).mix P s.mixer.master))) := rfl

variable {P s}

/-- What a command can do, said once: it is rejected, or it has its own effect and responds. -/
theorem execIn_cases {i : Instr} {t : State} (h : execIn P i s = .next t) :
    t = s.reject .control
    ∨ (i = .nop ∧ t = s.respond .control 0#32)
    ∨ (∃ v val, i = .trig v val ∧ val.isFinite = true ∧ t = (s.trigger P v val).respond .control 0#32)
    ∨ (∃ v p val r, i = .setp v p val ∧ regOf v p = some r ∧ val.isFinite = true
        ∧ t = (s.writeReg P r val).respond .control 0#32)
    ∨ (∃ val, i = .setmv val ∧ val.isFinite = true ∧ t = (s.setMaster P val).respond .control 0#32)
    ∨ (i = .status ∧ t = (s.setErr false).respond .control (statusWord s))
    ∨ (i = .mixrd ∧ t = s.respond .control s.mixer.mix.bits)
    ∨ (i = .sample ∧ t = (s.tick P).respond .audio (sampleWord P ((s.runs P).mix P s.mixer.master))) := by
  cases i with
  | nop => rw [execIn_nop] at h; cases h; simp
  | trig v val =>
    rcases hf : val.isFinite with _ | _
    · rw [execIn_trig_not_finite P s v hf] at h; cases h; simp
    · rw [execIn_trig P s v hf] at h; cases h
      exact .inr (.inr (.inl ⟨v, val, rfl, hf, rfl⟩))
  | setp v p val =>
    rcases hr : regOf v p with _ | r
    · rw [execIn_setp_no_register P s hr] at h; cases h; simp
    · rcases hf : val.isFinite with _ | _
      · rw [execIn_setp_not_finite P s hr hf] at h; cases h; simp
      · rw [execIn_setp P s hr hf] at h; cases h
        exact .inr (.inr (.inr (.inl ⟨v, p, val, r, rfl, hr, hf, rfl⟩)))
  | setmv val =>
    rcases hf : val.isFinite with _ | _
    · rw [execIn_setmv_not_finite P s hf] at h; cases h; simp
    · rw [execIn_setmv P s hf] at h; cases h
      exact .inr (.inr (.inr (.inr (.inl ⟨val, rfl, hf, rfl⟩))))
  | status => rw [execIn_status] at h; cases h; simp
  | mixrd => rw [execIn_mixrd] at h; cases h; simp
  | sample => rw [execIn_sample] at h; cases h; simp

variable (P) (s)

/-- No command faults and none is refused. -/
theorem execIn_next (i : Instr) : ∃ t, execIn P i s = .next t := by
  cases i with
  | trig v val => unfold execIn trigIn; dsimp only; split <;> exact ⟨_, rfl⟩
  | setp v p val =>
    unfold execIn setpIn
    dsimp only
    split
    · split <;> exact ⟨_, rfl⟩
    · exact ⟨_, rfl⟩
  | setmv val => unfold execIn setmvIn; dsimp only; split <;> exact ⟨_, rfl⟩
  | nop | status | mixrd | sample => exact ⟨_, rfl⟩

variable {P s}

/-- What a step can do, said once: it holds the state, resets the block, rejects a command, or runs one. -/
theorem stepIn_cases {t : State} (h : stepIn P s = .next t) :
    (s.inbox = [] ∧ t = s)
    ∨ (∃ rest, s.inbox = .reset :: rest ∧ t = (s.awaiting rest).resetBlock P)
    ∨ (∃ port cw dw rest r, s.inbox = .command port cw dw :: rest ∧ decode port cw dw = .error r
        ∧ t = (s.awaiting rest).reject port)
    ∨ (∃ port cw dw rest i, s.inbox = .command port cw dw :: rest ∧ decode port cw dw = .ok i
        ∧ execIn P i (s.awaiting rest) = .next t) := by
  rcases hx : s.inbox with _ | ⟨x, rest⟩
  · simp only [stepIn, fetch, hx] at h
    cases h
    exact .inl ⟨rfl, rfl⟩
  cases x with
  | reset =>
    simp only [stepIn, fetch, hx, accept] at h
    cases h
    exact .inr (.inl ⟨rest, rfl, rfl⟩)
  | command port cw dw =>
    simp only [stepIn, fetch, hx, accept] at h
    rcases hd : decode port cw dw with r | i
    · rw [hd] at h
      cases h
      exact .inr (.inr (.inl ⟨port, cw, dw, rest, r, rfl, hd, rfl⟩))
    · rw [hd] at h
      exact .inr (.inr (.inr ⟨port, cw, dw, rest, i, rfl, hd, h⟩))

/-- A property of the mixer and the voices that holds after RESET and that every effect keeps is kept by every step. -/
theorem stepIn_invariant (Inv : Mixer → Voices → Prop) (reset : Inv (mixerReset P) (voicesReset P))
    (err : ∀ m v b, Inv m v → Inv { m with cmdErr := b } v)
    (trig : ∀ m v w val, val.isFinite = true → Inv m v → Inv m (triggerVoice P w val v))
    (setp : ∀ m v r val, val.isFinite = true → Inv m v → Inv m (writeReg P r val v))
    (setmv : ∀ m v val, val.isFinite = true → Inv m v → Inv { m with master := P.clamp val F32.zero F32.one } v)
    (tick : ∀ m v mix, Inv m v →
      Inv { m with mix := mix, rng := (runVoices P m.rng v).rng } (runVoices P m.rng v).voices)
    (s t : State) (hs : Inv s.mixer s.voices) (h : stepIn P s = .next t) : Inv t.mixer t.voices := by
  rcases stepIn_cases h with ⟨-, rfl⟩ | ⟨_, -, rfl⟩ | ⟨_, _, _, rest, _, -, -, rfl⟩ | ⟨_, _, _, rest, i, -, -, hx⟩
  · exact hs
  · exact reset
  · exact err s.mixer s.voices true hs
  · replace hs : Inv (s.awaiting rest).mixer (s.awaiting rest).voices := hs
    generalize s.awaiting rest = u at hs hx
    obtain rfl | ⟨-, rfl⟩ | ⟨w, val, -, hf, rfl⟩ | hx := execIn_cases hx
    · exact err u.mixer u.voices true hs
    · exact hs
    · exact trig u.mixer u.voices w val hf hs
    obtain ⟨_, _, val, r, -, -, hf, rfl⟩ | ⟨val, -, hf, rfl⟩ | hx := hx
    · exact setp u.mixer u.voices r val hf hs
    · exact setmv u.mixer u.voices val hf hs
    obtain ⟨-, rfl⟩ | ⟨-, rfl⟩ | ⟨-, rfl⟩ := hx
    · exact err u.mixer u.voices false hs
    · exact hs
    · exact tick u.mixer u.voices _ hs

end AnyParameters

/-! ### `exec` and `step` are the case of the reference values -/

theorem exec_eq (i : Instr) (s : State) : exec i s = execIn reference i s := by cases i <;> rfl

theorem step_eq (s : State) : step s = stepIn reference s := by
  unfold step stepIn
  cases fetch reference s with
  | run i t => exact exec_eq i t
  | done t => rfl

theorem exec_nop (s : State) : exec .nop s = .next (s.respond .control 0#32) := rfl

theorem exec_trig (v : Voice) {val : F32} (h : val.isFinite = true) (s : State) :
    exec (.trig v val) s = .next ((s.trigger reference v val).respond .control 0#32) :=
  execIn_trig reference s v h

theorem exec_trig_not_finite (v : Voice) {val : F32} (h : val.isFinite = false) (s : State) :
    exec (.trig v val) s = .next (s.reject .control) := execIn_trig_not_finite reference s v h

theorem exec_setp {v : Voice} {p : Param} {r : Reg} (hr : regOf v p = some r) {val : F32} (h : val.isFinite = true)
    (s : State) : exec (.setp v p val) s = .next ((s.writeReg reference r val).respond .control 0#32) :=
  execIn_setp reference s hr h

theorem exec_setp_no_register {v : Voice} {p : Param} (hr : regOf v p = none) (val : F32) (s : State) :
    exec (.setp v p val) s = .next (s.reject .control) := execIn_setp_no_register reference s hr val

theorem exec_setp_not_finite {v : Voice} {p : Param} {r : Reg} (hr : regOf v p = some r) {val : F32}
    (h : val.isFinite = false) (s : State) : exec (.setp v p val) s = .next (s.reject .control) :=
  execIn_setp_not_finite reference s hr h

theorem exec_setmv {val : F32} (h : val.isFinite = true) (s : State) :
    exec (.setmv val) s = .next ((s.setMaster reference val).respond .control 0#32) := execIn_setmv reference s h

theorem exec_setmv_not_finite {val : F32} (h : val.isFinite = false) (s : State) :
    exec (.setmv val) s = .next (s.reject .control) := execIn_setmv_not_finite reference s h

theorem exec_status (s : State) : exec .status s = .next ((s.setErr false).respond .control (statusWord s)) := rfl

theorem exec_mixrd (s : State) : exec .mixrd s = .next (s.respond .control s.mixer.mix.bits) := rfl

theorem exec_sample (s : State) :
    exec .sample s
      = .next ((s.tick reference).respond .audio (sampleWord reference ((s.runs reference).mix reference s.mixer.master))) :=
  execIn_sample reference s

/-- No command faults and none is refused. -/
theorem exec_next (i : Instr) (s : State) : ∃ t, exec i s = .next t := by
  rw [exec_eq]; exact execIn_next reference s i

/-- One step of a run. -/
theorem run_next (M : Host.Core) (n : Nat) {s t : M.State} (h : M.step s = .next t) : M.run (n + 1) s = M.run n t := by
  simp [Host.Core.run, h]

end Sys2Proof.Machine
end

