-- ==== Sys2Proof/Laws/Voices.lean ====
section
/-!
SUPPORT. What the shared voice operations answer, said once: VOICE_PROCESS of an Idle and of a Sounding voice, and what
the end of a Sounding tick leaves in each voice record.
-/

namespace Sys2Proof

/-- VOICE_PROCESS of a Sounding voice (rule R210). -/
theorem voiceProcess_sounding {V : Type} (T : Template V) (P : Params) (rng : Word) {v : V} (h : T.isPlaying v = true) :
    voiceProcess T P rng v = ⟨(T.proc v).run P (P.mul (T.vel v) (T.graph P rng v).out), (T.graph P rng v).rng,
      voiceSettle T P (T.graph P rng v).voice⟩ := if_pos h

/-- VOICE_PROCESS of an Idle voice: `+0.0`, no draw, nothing changed (rule R210). -/
theorem voiceProcess_idle {V : Type} (T : Template V) (P : Params) (rng : Word) {v : V} (h : T.isPlaying v = false) :
    voiceProcess T P rng v = ⟨F32.zero, rng, v⟩ := if_neg (by simp [h])

/-- A field that the graph, the ageing and the completion leave is left by VOICE_PROCESS. -/
theorem voiceProcess_keeps {V A : Type} (T : Template V) (P : Params) (f : V → A)
    (graph : ∀ r v, f (T.graph P r v).voice = f v) (advance : ∀ v, f (T.mapEnvs Env.advance v) = f v)
    (stop : ∀ v, f (voiceStop T v) = f v) (r : Word) (v : V) : f (voiceProcess T P r v).voice = f v := by
  rcases h : T.isPlaying v with _ | _
  · rw [voiceProcess_idle T P r h]
  · rw [voiceProcess_sounding T P r h]
    unfold voiceSettle
    dsimp only
    split
    · rw [stop, advance, graph]
    · rw [advance, graph]

/-- A property of a voice record that its Sounding tick keeps is kept by VOICE_PROCESS. -/
theorem voiceProcess_invariant {V : Type} (T : Template V) (P : Params) (Q : V → Prop) {v : V} (h : Q v)
    (sounding : T.isPlaying v = true → ∀ r, Q (voiceSettle T P (T.graph P r v).voice)) (r : Word) :
    Q (voiceProcess T P r v).voice := by
  rcases hp : T.isPlaying v with _ | _
  · rw [voiceProcess_idle T P r hp]; exact h
  · rw [voiceProcess_sounding T P r hp]; exact sounding hp r

/-- A property of the noise word that the graph keeps is kept by VOICE_PROCESS. -/
theorem voiceProcess_rng {V : Type} (T : Template V) (P : Params) (Q : Word → Prop)
    (graph : ∀ r v, Q r → Q (T.graph P r v).rng) (r : Word) (v : V) (h : Q r) : Q (voiceProcess T P r v).rng := by
  rcases hp : T.isPlaying v with _ | _
  · rw [voiceProcess_idle T P r hp]; exact h
  · rw [voiceProcess_sounding T P r hp]; exact graph r v h

/-! ### The end of a Sounding tick (rules R164, R210, R211), voice by voice -/

theorem kick_settle (P : Params) (k : Kick) (h : k.isPlaying = true) :
    voiceSettle kickTemplate P k = { k with
      isPlaying := !k.ampEnv.doneNext P
      ampEnv := k.ampEnv.aged (k.ampEnv.doneNext P)
      pitchEnv := k.pitchEnv.aged (k.ampEnv.doneNext P) } := by
  have e : voiceDone kickTemplate P (kickTemplate.mapEnvs Env.advance k) = k.ampEnv.doneNext P := by
    simp [voiceDone, kickTemplate, Env.doneNext, Env.advance]
  unfold voiceSettle
  dsimp only
  rw [e]
  cases k; subst h
  generalize Env.doneNext P _ = d
  cases d <;> simp [Env.aged, kickTemplate, voiceStop, Env.advance, Env.deactivate]

theorem snare_settle (P : Params) (n : Snare) (h : n.isPlaying = true) :
    voiceSettle snareTemplate P n =
      let d := n.toneEnv.doneNext P && n.snapEnv.doneNext P
      { n with isPlaying := !d, toneEnv := n.toneEnv.aged d, snapEnv := n.snapEnv.aged d } := by
  have e : voiceDone snareTemplate P (snareTemplate.mapEnvs Env.advance n)
      = (n.toneEnv.doneNext P && n.snapEnv.doneNext P) := by
    simp [voiceDone, snareTemplate, Env.doneNext, Env.advance]
  unfold voiceSettle
  dsimp only
  rw [e]
  cases n; subst h
  generalize (Env.doneNext P _ && Env.doneNext P _) = d
  cases d <;> simp [Env.aged, snareTemplate, voiceStop, Env.advance, Env.deactivate]

theorem cymbal_settle (P : Params) (c : Cymbal) (h : c.isPlaying = true) :
    voiceSettle cymbalTemplate P c = { c with
      isPlaying := !c.env.doneNext P
      env := c.env.aged (c.env.doneNext P) } := by
  have e : voiceDone cymbalTemplate P (cymbalTemplate.mapEnvs Env.advance c) = c.env.doneNext P := by
    simp [voiceDone, cymbalTemplate, Env.doneNext, Env.advance]
  unfold voiceSettle
  dsimp only
  rw [e]
  cases c; subst h
  generalize Env.doneNext P _ = d
  cases d <;> simp [Env.aged, cymbalTemplate, voiceStop, Env.advance, Env.deactivate]

theorem hihat_settle (P : Params) (c : Hihat) (h : c.isPlaying = true) :
    voiceSettle hihatTemplate P c = { c with
      isPlaying := !c.env.doneNext P
      env := c.env.aged (c.env.doneNext P) } := by
  have e : voiceDone hihatTemplate P (hihatTemplate.mapEnvs Env.advance c) = c.env.doneNext P := by
    simp [voiceDone, hihatTemplate, Env.doneNext, Env.advance]
  unfold voiceSettle
  dsimp only
  rw [e]
  cases c; subst h
  generalize Env.doneNext P _ = d
  cases d <;> simp [Env.aged, hihatTemplate, voiceStop, Env.advance, Env.deactivate]

theorem tom_settle (P : Params) (n : Drum) (h : n.isPlaying = true) :
    voiceSettle tomTemplate P n =
      let d := n.toneEnv.doneNext P && n.noiseEnv.doneNext P
      { n with isPlaying := !d, toneEnv := n.toneEnv.aged d, noiseEnv := n.noiseEnv.aged d } := by
  have e : voiceDone tomTemplate P (tomTemplate.mapEnvs Env.advance n)
      = (n.toneEnv.doneNext P && n.noiseEnv.doneNext P) := by
    simp [voiceDone, tomTemplate, Env.doneNext, Env.advance]
  unfold voiceSettle
  dsimp only
  rw [e]
  cases n; subst h
  generalize (Env.doneNext P _ && Env.doneNext P _) = d
  cases d <;> simp [Env.aged, tomTemplate, voiceStop, Env.advance, Env.deactivate]

/-- The Conga's record changes as the Tom's does. -/
theorem conga_settle (P : Params) (n : Drum) : voiceSettle congaTemplate P n = voiceSettle tomTemplate P n := rfl

theorem rimshot_settle (P : Params) (c : Rimshot) (h : c.isPlaying = true) :
    voiceSettle rimshotTemplate P c = { c with
      isPlaying := !c.env.doneNext P
      env := c.env.aged (c.env.doneNext P) } := by
  have e : voiceDone rimshotTemplate P (rimshotTemplate.mapEnvs Env.advance c) = c.env.doneNext P := by
    simp [voiceDone, rimshotTemplate, Env.doneNext, Env.advance]
  unfold voiceSettle
  dsimp only
  rw [e]
  cases c; subst h
  generalize Env.doneNext P _ = d
  cases d <;> simp [Env.aged, rimshotTemplate, voiceStop, Env.advance, Env.deactivate]

theorem maracas_settle (P : Params) (c : Maracas) (h : c.isPlaying = true) :
    voiceSettle maracasTemplate P c = { c with
      isPlaying := !c.env.doneNext P
      env := c.env.aged (c.env.doneNext P) } := by
  have e : voiceDone maracasTemplate P (maracasTemplate.mapEnvs Env.advance c) = c.env.doneNext P := by
    simp [voiceDone, maracasTemplate, Env.doneNext, Env.advance]
  unfold voiceSettle
  dsimp only
  rw [e]
  cases c; subst h
  generalize Env.doneNext P _ = d
  cases d <;> simp [Env.aged, maracasTemplate, voiceStop, Env.advance, Env.deactivate]

theorem clap_settle (P : Params) (p : Clap) (h : p.isPlaying = true) :
    voiceSettle clapTemplate P p =
      let d := p.sawEnv.doneNext P && p.revEnv.doneNext P && p.burstsLeft == 0
      { p with isPlaying := !d, sawEnv := p.sawEnv.aged d, revEnv := p.revEnv.aged d } := by
  have e : voiceDone clapTemplate P (clapTemplate.mapEnvs Env.advance p)
      = (p.sawEnv.doneNext P && p.revEnv.doneNext P && p.burstsLeft == 0) := by
    simp [voiceDone, clapTemplate, Env.doneNext, Env.advance, BEq.beq]
  unfold voiceSettle
  dsimp only
  rw [e]
  cases p; subst h
  generalize (Env.doneNext P _ && Env.doneNext P _ && _ == 0) = d
  cases d <;> simp [Env.aged, clapTemplate, voiceStop, Env.advance, Env.deactivate]

theorem cowbell_settle (P : Params) (c : Cowbell) (h : c.isPlaying = true) :
    voiceSettle cowbellTemplate P c = { c with
      isPlaying := !c.env.doneNext P
      env := c.env.aged (c.env.doneNext P) } := by
  have e : voiceDone cowbellTemplate P (cowbellTemplate.mapEnvs Env.advance c) = c.env.doneNext P := by
    simp [voiceDone, cowbellTemplate, Env.doneNext, Env.advance]
  unfold voiceSettle
  dsimp only
  rw [e]
  cases c; subst h
  generalize Env.doneNext P _ = d
  cases d <;> simp [Env.aged, cowbellTemplate, voiceStop, Env.advance, Env.deactivate]

/-- CLAP_BURST where a burst is due, and where none is (rule R291). -/
theorem clap_burst_due {P : Params} {p : Clap} (h : p.burstDue P = true) :
    p.burst P = { p with sawEnv := p.sawEnv.trigger, burstsLeft := p.burstsLeft - 1, burstAge := 0#32 } := if_pos h

theorem clap_burst_not_due {P : Params} {p : Clap} (h : p.burstDue P = false) : p.burst P = p :=
  if_neg (by simp [h])

end Sys2Proof
end

