-- ==== Sys2Proof/Machine/Assembler.lean ====
section
/-!
DEFINITION. The assembler syntax and the pseudo-instructions (rules R110, R111), and a command as the block receives it.
The lexical points the rules leave open are log entry 11's.
-/

namespace Sys2Proof.Machine

/-- A voice's name (rule R110). -/
def voiceName : Voice → String
  | .kick => "kick"
  | .snare => "snare"
  | .cymbal => "cymbal"
  | .hihat => "hihat"
  | .tom => "tom"
  | .conga => "conga"
  | .rimshot => "rimshot"
  | .maracas => "maracas"
  | .clap => "clap"
  | .cowbell => "cowbell"

/-- A parameter's name (rule R110). -/
def paramName : Param → String
  | .decay => "decay"
  | .tone => "tone"
  | .tuning => "tuning"
  | .snappy => "snappy"
  | .opened => "open"

/-- The value of a run of decimal digits, none for an empty run or another character. -/
def digits (cs : List Char) : Option Nat :=
  if cs.isEmpty || !cs.all Char.isDigit then none
  else some (cs.foldl (fun n c => 10 * n + (c.toNat - 48)) 0)

/-- A decimal literal without a sign, to the nearest binary32 (rules R13, R110). -/
def unsignedLiteral (cs : List Char) : Option F32 :=
  let whole := cs.takeWhile (· != '.')
  match cs.dropWhile (· != '.') with
  | [] => (digits whole).map (fun n => F32.lit n 0)
  | _ :: part => (digits (whole ++ part)).map (fun n => F32.lit n part.length)

/-- A decimal literal (rule R110). -/
def literal (t : String) : Option F32 :=
  match t.toList with
  | '-' :: cs => (unsignedLiteral cs).map F32.neg
  | cs => unsignedLiteral cs

/-- A voice by its name or its number (rule R110). -/
def voiceToken (t : String) : Option Voice :=
  Voice.all.find? (fun v => voiceName v == t || digits t.toList == some v.code.toNat)

/-- A parameter by its name or its number (rule R110). -/
def paramToken (t : String) : Option Param :=
  Param.all.find? (fun p => paramName p == t || digits t.toList == some p.code.toNat)

/-- The words of a line: up to the comment sign, separated by blanks and commas (rule R110). -/
def tokens (line : String) : List String :=
  let code := line.toList.takeWhile (· != ';')
  ((code.splitBy (fun a b => sep a == sep b)).filter (fun g => !g.any sep)).map String.ofList
where
  /-- a character between two words -/
  sep (c : Char) : Bool := c == ' ' || c == ',' || c == '\t'

/-- The commands of a line's words: one command (rule R110), or what a pseudo-instruction expands to (rule R111). -/
def assembleTokens : List String → Option (List Instr)
  | [] => some []
  | ["NOP"] => some [.nop]
  | ["TRIG", v] => (voiceToken v).map (fun v => [.trig v F32.one])
  | ["TRIG", v, x] =>
    match voiceToken v, literal x with
    | some v, some x => some [.trig v x]
    | _, _ => none
  | ["SETP", v, p, x] =>
    match voiceToken v, paramToken p, literal x with
    | some v, some p, some x => some [.setp v p x]
    | _, _, _ => none
  | ["SETMV", x] => (literal x).map (fun x => [.setmv x])
  | ["STATUS"] => some [.status]
  | ["MIXRD"] => some [.mixrd]
  | ["SAMPLE"] => some [.sample]
  | ["HHOPEN"] => some [.setp .hihat .opened F32.one]
  | ["HHCLOSE"] => some [.setp .hihat .opened F32.zero]
  | ["MUTE"] => some [.setmv F32.zero]
  | ["TICK", n] => (digits n.toList).map (fun n => List.replicate n .sample)
  | _ => none

/-- The commands of one line of assembler text (rules R110, R111). -/
def assemble (line : String) : Option (List Instr) := assembleTokens (tokens line)

/-- A command as it reaches the block: on its own port, as its two words (rules R100, R101, R110). -/
def commandInput (i : Instr) : Input := .command i.port i.cw i.dw

end Sys2Proof.Machine
end

