-- ==== Sys2Proof/Tests/Slice0.lean ====
section
/-!
SUPPORT. The model's own tests.  Expected values come from spec/: the rule's examples and 95_test_vectors.md, named in
each comment.  The second half shows, for each statement of the obligations that has hypotheses, a state and operands
that meet all of them.
-/

namespace Sys2Proof.Tests

open Sys2Proof Sys2Proof.Machine

-- the tests elaborate one after another: each waiting test would otherwise hold a thread of its own
set_option Elab.async false

/-! ### Helpers -/

/-- The reset state with one command to take. -/
def asked (port : Port) (cw dw : Word) : State := { State.reset with inbox := [.command port cw dw] }

/-- The state a step leaves. -/
def stepped (s : State) : State :=
  match step s with
  | .next t => t
  | _ => s

/-- The state a command leaves. -/
def done (i : Instr) (s : State) : State :=
  match exec i s with
  | .next t => t
  | _ => s

/-- Another legal choice of the parameters (rule R7): the highest sample rate, filter memory kept, the smallest seed. -/
def fastInstance : Instance :=
  ⟨{ reference with fs := F32.lit 48000 0, frt := fun _ => false, noiseSeed := 1 }, by decide +kernel⟩

/-- The reset state with every voice triggered at velocity 1.0. -/
def allSounding : State := Voice.all.foldl (fun s v => done (.trig v F32.one) s) State.reset

/-- A command word of its four fields, written out (rule R102). -/
def fields (op voice param : BitVec 4) (rsv : BitVec 20) : Word := (op ++ voice ++ param ++ rsv : BitVec (4 + 4 + 4 + 20))

/-! ### WellFormed: an ill-formed term for each check (rules R107, R108, R317) -/

theorem test_wf_setp_pair : (Instr.setp .snare .decay F32.one).wellFormed = false := by decide

theorem test_wf_setp_voice_without_registers : (Instr.setp .clap .decay F32.one).wellFormed = false := by decide

theorem test_wf_setp_infinite : (Instr.setp .kick .decay ⟨0x7F800000⟩).wellFormed = false := by decide

theorem test_wf_trig_nan : (Instr.trig .kick ⟨0x7FC00000⟩).wellFormed = false := by decide

theorem test_wf_setmv_infinite : (Instr.setmv ⟨0xFF800000⟩).wellFormed = false := by decide

theorem test_wf_accepts_subnormal : (Instr.setmv ⟨0x00000001⟩).wellFormed = true := by decide

/-! ### Decoding: the words written out from rules R102, R106, R107 and R112 -/

theorem test_decode_nop : decode .control (fields 0b0000 0b0000 0b0000 0) 0x12345678 = .ok .nop := by decide

theorem test_decode_trig : decode .control (fields 0b0001 0b0111 0b0000 0) 0x3F800000 = .ok (.trig .maracas F32.one) := by
  decide

theorem test_decode_setp : decode .control (fields 0b0010 0b0101 0b0010 0) 0x43960000
    = .ok (.setp .conga .tuning (F32.lit 300 0)) := by decide +kernel

theorem test_decode_setp_all : [(0x20000000, Voice.kick, Param.decay), (0x20100000, .kick, .tone),
    (0x21100000, .snare, .tone), (0x21300000, .snare, .snappy), (0x22000000, .cymbal, .decay),
    (0x22100000, .cymbal, .tone), (0x23400000, .hihat, .opened), (0x24200000, .tom, .tuning),
    (0x25200000, .conga, .tuning)].all (fun (w, v, p) =>
      decide ((decode .control w 0x3F000000).toOption = some (.setp v p ⟨0x3F000000⟩))) = true := by decide +kernel

theorem test_decode_setmv : decode .control (fields 0b0011 0b0000 0b0000 0) 0x3F000000 = .ok (.setmv (F32.lit 5 1)) := by
  decide +kernel

theorem test_decode_status : decode .control (fields 0b0100 0b0000 0b0000 0) 0xFFFFFFFF = .ok .status := by decide

theorem test_decode_mixrd : decode .control (fields 0b0101 0b0000 0b0000 0) 0 = .ok .mixrd := by decide

theorem test_decode_sample : decode .audio (fields 0b1000 0b0000 0b0000 0) 0xDEADBEEF = .ok .sample := by decide

/-- 95_test_vectors.md V1: the rejected words, each for the first reason that applies (rule R108). -/
theorem test_decode_rejects : decode .control 0xF0000000 0 = .error .reservedOp
    ∧ decode .control 0x70000000 0 = .error .reservedOp ∧ decode .control 0x90000000 0 = .error .reservedOp
    ∧ decode .audio 0x80000010 0 = .error .reservedBits ∧ decode .control 0x30100000 0x3F000000 = .error .mustBeZero
    ∧ decode .audio 0x40000000 0 = .error .wrongPort ∧ decode .control 0x30000000 0xFF800000 = .error .notFinite
    ∧ decode .control 0x20500000 0x3F000000 = .error .noSuchRegister := by decide

theorem test_encode : encode (.setp .kick .decay (F32.lit 800 0)) = (0x20000000, 0x44480000)
    ∧ encode (.trig .kick (F32.lit 5 1)) = (0x10000000, 0x3F000000) ∧ encode .sample = (0x80000000, 0) := by
  decide +kernel

/-- The least significant byte travels first (rule R82); seven bytes are no command (rule R83). -/
theorem test_decode_bytes : decodeBytes .control [0x00, 0x00, 0x00, 0x17, 0x00, 0x00, 0x80, 0x3F, 0xAA]
      = .ok (.trig .maracas F32.one, [0xAA])
    ∧ decodeBytes .control [0x00, 0x00, 0x00, 0x17, 0x00, 0x00, 0x80] = .error .incomplete := by decide

theorem test_table_word : decodeTableWord 64 0x3F80000017000000 = some (.trig .maracas F32.one)
    ∧ decodeTableWord 32 0x80000000 = some .sample ∧ decodeTableWord 32 0x60000000 = none
    ∧ decodeTableWord 32 0x24200000 = some (.setp .tom .tuning F32.zero) := by decide

/-- The fetched word is run as the first command after reset. -/
theorem test_with_fetch_word : step (State.reset.withFetchWord 32 0x80000000) = exec .sample State.reset
    ∧ step (State.reset.withFetchWord 64 0x3F80000017000000) = exec (.trig .maracas F32.one) State.reset := ⟨rfl, rfl⟩

/-! ### The assembler (rules R110, R111) -/

theorem test_assemble_lines : assemble "TRIG maracas, 1.0" = some [.trig .maracas F32.one]
    ∧ assemble "SETP 5, 2, 300.0 ; the conga" = some [.setp .conga .tuning (F32.lit 300 0)]
    ∧ assemble "SETMV -0.5" = some [.setmv (F32.lit 5 1).neg] ∧ assemble "TRIG bell, 1.0" = none := by decide +kernel

theorem test_assemble_pseudo : assemble "TRIG kick" = some [.trig .kick F32.one]
    ∧ assemble "HHOPEN" = some [.setp .hihat .opened F32.one] ∧ assemble "HHCLOSE" = some [.setp .hihat .opened F32.zero]
    ∧ assemble "MUTE" = some [.setmv F32.zero] ∧ assemble "TICK 3" = some [.sample, .sample, .sample] := by decide +kernel

/-! ### One step of each command -/

/-- Rule R311: the error flag is not cleared. -/
theorem test_nop_keeps_error : (done .nop (stepped (asked .control 0x00000001 0))).mixer.cmdErr = true := by decide +kernel

/-- Rule R312's examples. -/
theorem test_trig_maracas : (stepped (asked .control 0x17000000 0x3F800000)).voices.maracas.isPlaying = true
    ∧ (stepped (asked .control 0x17000000 0x3F800000)).voices.maracas.vel = F32.one := by decide +kernel

theorem test_trig_clamps : (done (.trig .snare (F32.lit 25 1)) State.reset).voices.snare.vel = F32.one := by decide +kernel

/-- Rule R318's example: 1000 / (800 * 32768), rounded, is 0x38200000. -/
theorem test_setp_kick_decay : (stepped (asked .control 0x20000000 0x44480000)).voices.kick.bt.decayRate = ⟨0x38200000⟩
    ∧ (stepped (asked .control 0x20000000 0x44480000)).voices.kick.ampEnv.decayMs = F32.lit 800 0 := by decide +kernel

/-- Rule R236's examples. -/
theorem test_setp_hihat : (done (.setp .hihat .opened (F32.lit 7 1)) State.reset).voices.hihat.env.decayMs = F32.lit 400 0
    ∧ (done (.setp .hihat .opened (F32.lit 49 2)) State.reset).voices.hihat.opened = false := by decide +kernel

/-- Rule R316's example, and its corner case: `-0.0` is stored as it is. -/
theorem test_setmv_clamps : (done (.setmv (F32.lit 3 0)) State.reset).mixer.master = F32.one
    ∧ (done (.setmv F32.zero.neg) State.reset).mixer.master = F32.zero.neg := by decide +kernel

/-- Kick and Clap Sounding, after a rejected word. -/
def kickClapErr : State := (done (.trig .clap F32.one) (done (.trig .kick F32.one) State.reset)).setErr true

/-- Rule R315's example: the word, and a second read. -/
theorem test_status_word : (done .status kickClapErr).out.head? = some ⟨.control, 0x00010101⟩
    ∧ (done .status (done .status kickClapErr)).out.head? = some ⟨.control, 0x00000101⟩ := by decide +kernel

/-- Rule R320: the bits of the last mixer output. -/
theorem test_mixrd : (done .mixrd { State.reset with mixer := { State.reset.mixer with mix := ⟨0x3CFF6063⟩ } }).out
    = [⟨.control, 0x3CFF6063⟩] := by decide +kernel

/-- Rules R220, R319: the Snare's first sample is 0 and takes one noise draw. -/
theorem test_sample_first : (done .sample (done (.trig .snare F32.one) State.reset)).mixer.rng = 0x2B1F4D63
    ∧ (done .sample (done (.trig .snare F32.one) State.reset)).out.head? = some ⟨.audio, 0⟩ := by decide +kernel

/-- Rule R260's example: the Tom's frequency after one SAMPLE, 156.75. -/
theorem test_sample_bends_tom : (done .sample (done (.trig .tom F32.one) State.reset)).voices.tom.bt.freq
    = F32.lit 15675 2 := by decide +kernel

/-- Rules R7, R31: with the seed 1 the Snare's first draw is 0x00042021 (95_test_vectors.md V3.3), `TS_MS` is 1000 / 48000,
and where `FRT` is false TRIG keeps the filter memory (the rule of V8.18). -/
theorem test_another_instance :
    let s := { State.resetOf fastInstance.params with
      inbox := [.command .control 0x11000000 0x3F800000, .command .audio 0x80000000 0] }
    (match fastInstance.block.run 2 s with
      | .next t => decide (t.mixer.rng = 0x00042021 ∧ t.voices.snare.isPlaying = true)
      | _ => false) = true
    ∧ fastInstance.params.tsMs = ⟨0x3CAAAAAB⟩
    ∧ (let n := { s.voices.snare with hp := { s.voices.snare.hp with y1 := F32.one } }
       match execIn fastInstance.params (.trig .snare F32.one) { s with voices := { s.voices with snare := n } } with
       | .next t => decide (t.voices.snare.hp.y1 = F32.one)
       | _ => false) = true := by decide +kernel

/-! ### Components -/

/-- 95_test_vectors.md V2.2, V2.5, V2.6: an oscillator at 8192 Hz, and the two ends of the frequency clamp. -/
theorem test_osc : ((Osc.reset reference (F32.lit 8192 0) F32.one).inc = ⟨0x3FC90FDB⟩
      ∧ ((Osc.reset reference (F32.lit 8192 0) F32.one).advance reference).sineOut reference = F32.one)
    ∧ (Osc.reset reference (F32.lit 5 0).neg F32.one).inc = ⟨0x39490FDB⟩
    ∧ (Osc.reset reference (F32.lit 20000 0) F32.one).inc = ⟨0x4034F4AB⟩ := by decide +kernel

/-- 95_test_vectors.md V3.1, V3.3, V3.4; rule R139's example. -/
theorem test_noise : rngNext 0x92D68CA2 = 0x2B1F4D63 ∧ rngNext 0x2B1F4D63 = 0x94DACB7A ∧ rngNext 1 = 0x00042021
    ∧ rngNext 0xFFFFFFFF = 0x0003E01F
    ∧ ((noiseReset reference).pinkNoise reference 0x92D68CA2).2.2.pink = ⟨0x3BDCC938⟩ := by decide +kernel

/-- Rule R143's example: freq 50, decay 500 ms, the first call. -/
theorem test_bt_gen : (Bt.reset reference (F32.lit 50 0) (F32.lit 500 0)).decayRate = ⟨0x38800000⟩
    ∧ ((Bt.reset reference (F32.lit 50 0) (F32.lit 500 0)).trigger.gen reference).1 = F32.zero
    ∧ ((Bt.reset reference (F32.lit 50 0) (F32.lit 500 0)).trigger.gen reference).2.phase = ⟨0x3C0D5F26⟩ := by
  decide +kernel

/-- 95_test_vectors.md V5.1: A 1.0, D 10.0, S 0.0 is not done at age 360 and is at age 361. -/
theorem test_env_done : ({ (Env.reset reference (F32.lit 10 0)).trigger with age := 360 } : Env).done reference = false
    ∧ ({ (Env.reset reference (F32.lit 10 0)).trigger with age := 361 } : Env).done reference = true := by decide +kernel

/-- Rule R182's example: cutoff 1000, q 2; 95_test_vectors.md V6.8: the cutoff clamp. -/
theorem test_flt_coefficients : (Flt.reset reference (F32.lit 2 0) (F32.lit 1000 0)).beta = ⟨0x3D3A4617⟩
    ∧ (Flt.reset reference (F32.lit 2 0) (F32.lit 1000 0)).gamma = ⟨0x3FEFE125⟩
    ∧ (Flt.reset reference (F32.lit 2 0) (F32.lit 1000 0)).delta = ⟨0x3F68B73E⟩
    ∧ (Flt.reset reference (F32.lit 2 0) (F32.lit 5 0)).cutoff = F32.lit 20 0 := by decide +kernel

/-- 95_test_vectors.md V7.1 (0.46211716532707214), V7.5 and V7.6. -/
theorem test_proc : (Proc.mk F32.one F32.one).run reference (F32.lit 5 1) = F32.lit 46211716532707214 17
    ∧ (Proc.mk (F32.lit 5 1) F32.zero).run reference (F32.lit 75 2) = F32.lit 375 3
    ∧ (Proc.mk F32.one F32.negOne).run reference (F32.lit 3 0) = F32.lit 3 0 := by decide +kernel

/-- Rule R322's examples. -/
theorem test_quantise : (quantise reference (F32.lit 12058242224156857 18).neg).toInt = -395
    ∧ (quantise reference F32.one).toInt = 32767 ∧ (quantise reference F32.negOne).toInt = -32767 := by decide +kernel

/-- Rule R7's FTZ: the smallest subnormal times one. -/
theorem test_ftz : reference.mul ⟨1⟩ F32.one = ⟨1⟩
    ∧ ({ reference with ftz := true } : Params).mul ⟨1⟩ F32.one = F32.zero := by decide +kernel

/-! ### Witnesses: the hypotheses of the statements are met -/

/-- A state whose ten voices sound, after one tick. -/
def ticked : State := done .sample allSounding

/-- The Clap with a burst due: 492 ticks after the last one (rule R291). -/
def clapDue : Clap := { allSounding.voices.clap with burstAge := 492 }

/-- An oscillator of the reset state: the Kick's, 50 Hz. -/
def osc50 : Osc := State.reset.voices.kick.sub

theorem test_meets_DecodeOfEncodeIsTheCommand : (Instr.trig .cowbell F32.one).wellFormed = true
    ∧ (Instr.setp .conga .tuning (F32.lit 250 0)).wellFormed = true ∧ Instr.sample.wellFormed = true := by decide +kernel

theorem test_meets_DecodedWordsEncodeBack : decode .control 0x19000000 0x3F800000 = .ok (.trig .cowbell F32.one)
    ∧ (Instr.trig .cowbell F32.one).readsData = true := by decide

theorem test_meets_ByteFormCarriesTheCommand : (Instr.setmv F32.one).wellFormed = true := by decide

theorem test_meets_DataWordIsIgnoredOrMustBeFinite : (Instr.status.wellFormed = true ∧ Instr.status.readsData = false)
    ∧ ((Instr.setmv F32.one).wellFormed = true ∧ (Instr.setmv F32.one).readsData = true
      ∧ (0x7F7FFFFF : Word).extractLsb' 23 8 ≠ 0xFF#8 ∧ (0x7F800000 : Word).extractLsb' 23 8 = 0xFF#8) := by decide

theorem test_meets_StepRunsTheDecodedCommand : (asked .audio 0x80000000 7).inbox = [.command .audio 0x80000000 7]
    ∧ decode .audio 0x80000000 7 = .ok .sample := ⟨rfl, by decide⟩

theorem test_meets_StepRejectsWhatDoesNotDecode :
    (asked .audio 0x10000000 0x3F800000).inbox = [.command .audio 0x10000000 0x3F800000]
    ∧ decode .audio 0x10000000 0x3F800000 = .error .wrongPort := ⟨rfl, by decide⟩

theorem test_meets_StepResetsTheBlock : ({ ticked with inbox := [.reset] } : State).inbox = [.reset] := rfl

theorem test_meets_EveryStepCompletes : State.reset.inbox = [] := rfl

/-- Both ends of [0, 1], and a value just outside each. -/
theorem test_meets_SetmvStoresTheClampedVolume : F32.zero.isFinite = true ∧ F32.within F32.zero F32.one F32.zero
    ∧ F32.within F32.zero F32.one F32.one
    ∧ ((F32.mk 0x80000001).isFinite = true ∧ F32.lt ⟨0x80000001⟩ F32.zero = true)
    ∧ ((F32.mk 0x3F800001).isFinite = true ∧ F32.lt F32.one ⟨0x3F800001⟩ = true) := by decide

theorem test_meets_IllFormedCommandsAreRejected : (Instr.setp .snare .decay F32.one).wellFormed = false := by decide

theorem test_meets_TrigRestartsTheVoice : F32.one.isFinite = true ∧ Voice.snare ≠ .kick ∧ Voice.snare ≠ .tom
    ∧ Voice.snare ≠ .conga := by decide

theorem test_meets_TrigOwnSteps : (F32.mk 0x7F7FFFFF).isFinite = true := by decide

/-- Both values of `FRT`. -/
theorem test_meets_FilterMemoryFollowsFrt : reference.frt .clap = true
    ∧ ({ reference with frt := fun v => v != .clap } : Params).frt .clap = false := by decide

/-- The bounds of the registers' ranges, and the HiHat's threshold, are finite. -/
theorem test_meets_Setp : (F32.lit 300 0).isFinite = true ∧ (F32.lit 1200 0).isFinite = true
    ∧ (F32.lit 500 0).isFinite = true ∧ (F32.lit 2000 0).isFinite = true ∧ (F32.lit 5 1).isFinite = true
    ∧ (F32.lit 120 0).isFinite = true ∧ (F32.lit 400 0).isFinite = true := by decide +kernel

theorem test_meets_IdleVoiceIsUntouched : ∀ v ∈ Voice.all, State.reset.voices.playing v = false := by decide +kernel

theorem test_meets_SampleOfSilence : (∀ v ∈ Voice.all, State.reset.voices.playing v = false)
    ∧ State.reset.mixer.master.isFinite = true ∧ State.reset.mixer.master.sign = false := by decide +kernel

/-- The tick statements, of a state before and after its first tick. -/
theorem test_meets_Ticks : (∀ v ∈ Voice.all, allSounding.voices.playing v = true)
    ∧ (∀ v ∈ Voice.all, ticked.voices.playing v = true) := by decide +kernel

/-- Both branches of ClapTick: a burst due at age 492, none due at age 491 (rule R291). -/
theorem test_meets_ClapTick : (0 < clapDue.burstsLeft
      ∧ F32.le (F32.lit 15 0) (reference.mul (reference.ofWord 492) reference.tsMs) = true)
    ∧ F32.le (F32.lit 15 0) (reference.mul (reference.ofWord 491) reference.tsMs) = false := by decide +kernel

/-- All ten voices Sounding, at the bound. -/
theorem test_meets_EveryVoiceFallsSilent :
    let s := { allSounding with inbox := List.replicate 65504 (.command .audio 0x80000000 0) }
    s.registersLegal ∧ s.derived ∧ s.flagsAgree ∧ s.voices.configured = State.reset.voices.configured
    ∧ s.voices.playing .cymbal = true ∧ s.inbox = List.replicate 65504 (.command .audio 0x80000000 0) :=
  ⟨by decide +kernel, by decide +kernel, by decide +kernel, by decide +kernel, by decide +kernel, rfl⟩

theorem test_meets_ToneVoicesIgnoreTheNoiseWord : (done (.trig .kick F32.one) State.reset).voices.draws = 0 := by
  decide +kernel

/-- `-1` and `1` themselves, a value below and one above. -/
theorem test_meets_ClampHoldsTheRange : F32.le F32.negOne F32.one = true ∧ F32.within F32.negOne F32.one F32.one
    ∧ F32.within F32.negOne F32.one F32.negOne ∧ F32.lt ⟨0xBF800001⟩ F32.negOne = true
    ∧ F32.lt F32.one ⟨0x3F800001⟩ = true ∧ (F32.mk 0x3F800001).isNaN = false ∧ (F32.mk 0xBF800001).isNaN = false
    ∧ F32.one.isNaN = false := by decide

theorem test_meets_SetFreqGivesALegalIncrement : F32.zero.isFinite = true
    ∧ (F32.mk 0xFF7FFFFF).isFinite = true := by decide

/-- The phase 0, and the largest phase below 2 pi. -/
theorem test_meets_AdvanceKeepsThePhaseInRange : osc50.phaseOk
    ∧ ({ osc50 with phase := ⟨0x40C90FDA⟩ } : Osc).phaseOk := by decide +kernel

/-- Ringing and silent; an instance whose arithmetic is the reference one, at another `FS`. -/
theorem test_meets_BridgedTStaysInRange : State.reset.voices.kick.bt.trigger.ok ∧ State.reset.voices.kick.bt.ok
    ∧ State.reset.voices.kick.bt.trigger.active = true ∧ State.reset.voices.kick.bt.active = false
    ∧ fastInstance.params.num = ieeeBinary32 ∧ fastInstance.params.ftz = false
    ∧ fastInstance.params.cfg.timeMinMs = F32.lit 1 1 ∧ (F32.lit 500 0).isFinite = true :=
  ⟨by decide +kernel, by decide +kernel, by decide +kernel, by decide +kernel, rfl, rfl, rfl, by decide +kernel⟩

theorem test_meets_PinkNoiseStaysBounded : F32.within F32.negOne F32.one ({ osc50 with pink := F32.negOne } : Osc).pink := by
  decide

/-- The Kick's amplitude envelope: ages 0 to 32 are the attack, 33 to 16416 the decay. -/
theorem test_meets_EnvelopeIsMonotoneInEachPhase :
    let e := State.reset.voices.kick.ampEnv.trigger
    e.isActive = true ∧ e.attackMs.isFinite = true ∧ F32.le (F32.lit 1 1) e.attackMs = true
    ∧ (0 : Word) ≤ 32 ∧ F32.lt (Env.time reference { e with age := 32 }) e.attackMs = true
    ∧ (33 : Word) ≤ 16416 ∧ e.sustain = F32.zero ∧ e.decayMs.isFinite = true ∧ F32.le (F32.lit 1 1) e.decayMs = true
    ∧ F32.le e.attackMs (Env.time reference { e with age := 33 }) = true
    ∧ F32.lt (Env.time reference { e with age := 16416 }) (reference.add e.attackMs e.decayMs) = true := by decide +kernel

/-- Each of the three clauses: age 0, the first age beyond the decay, an inactive envelope. -/
theorem test_meets_EnvelopeEnds :
    let e := State.reset.voices.kick.ampEnv.trigger
    e.attackMs.isFinite = true ∧ F32.lt F32.zero e.attackMs = true ∧ e.decayMs.isFinite = true
    ∧ F32.lt F32.zero e.decayMs = true ∧ (e.isActive = true ∧ e.age = 0 ∧ e.sustain = F32.zero)
    ∧ F32.le (reference.add e.attackMs e.decayMs) (Env.time reference { e with age := 16417 }) = true
    ∧ State.reset.voices.kick.ampEnv.isActive = false := by decide +kernel

theorem test_meets_SetCutoffGivesALegalPole : (F32.lit 20 0).isFinite = true ∧ (F32.lit 20000 0).isFinite = true
    ∧ State.reset.voices.clap.bp.q = F32.lit 2 0 := by decide +kernel

theorem test_meets_ReferenceFunctionProperties : (F32.lit 5 1).isNaN = false ∧ (F32.mk 0x7F800000).isNaN = false := by
  decide +kernel

/-- Both clauses, the first at its bound. -/
theorem test_meets_ProcessorSaturates : F32.one.isFinite = true ∧ F32.zero.isFinite = true
    ∧ F32.le F32.zero F32.zero = true ∧ F32.lt F32.zero F32.one = true := by decide

theorem test_meets_QuantiserTruncates : F32.within F32.negOne F32.one F32.negOne
    ∧ F32.within F32.negOne F32.one F32.one := by decide

/-- Both ends of the tuning range; a sounding Tom with the fewest commands to take. -/
theorem test_meets_TomBendCollapses :
    let s := { allSounding with inbox := List.replicate 104 (.command .audio 0x80000000 0) }
    (referenceCfg.tomTuning.holds (F32.lit 120 0) ∧ referenceCfg.tomTuning.holds (F32.lit 200 0))
    ∧ referenceCfg.tomTuning.holds s.voices.tom.bt.freq ∧ s.voices.playing .tom = true
    ∧ s.inbox = List.replicate 104 (.command .audio 0x80000000 0) :=
  ⟨by decide +kernel, by decide +kernel, by decide +kernel, rfl⟩

/-- The invariants hold in the reset state with a command to take, whose step completes. -/
theorem test_meets_Invariants : (asked .control 0x10000000 0x3F800000).registersLegal
    ∧ (asked .control 0x10000000 0x3F800000).derived ∧ (asked .control 0x10000000 0x3F800000).flagsAgree
    ∧ (asked .control 0x10000000 0x3F800000).phasesOk ∧ (asked .control 0x10000000 0x3F800000).noiseAlive
    ∧ step (asked .control 0x10000000 0x3F800000) = exec (.trig .kick F32.one) State.reset := by
  refine ⟨?_, ?_, ?_, ?_, ?_, rfl⟩
  case refine_4 => unfold State.phasesOk Voices.phasesOk; constructorm* _ ∧ _ <;> decide +kernel
  all_goals decide +kernel

/-- The same while the ten voices sound. -/
theorem test_meets_Invariants_sounding : ticked.registersLegal ∧ ticked.derived ∧ ticked.flagsAgree ∧ ticked.phasesOk
    ∧ ticked.noiseAlive := by
  refine ⟨?_, ?_, ?_, ?_, ?_⟩
  case refine_4 => unfold State.phasesOk Voices.phasesOk; constructorm* _ ∧ _ <;> decide +kernel
  all_goals decide +kernel

theorem test_meets_NoCommandWritesTheConfiguration : exec .nop State.reset = .next (done .nop State.reset) := rfl

/-- One case of each clause: a voice starts, a voice ends, the flag falls, the flag rises, a register, the master
volume and the noise word change. -/
theorem test_meets_OnlyTheirCommandsWriteThem :
    let ending := { allSounding with voices := { allSounding.voices with
      rimshot := { allSounding.voices.rimshot with env := { allSounding.voices.rimshot.env with age := 360 } } } }
    (State.reset.voices.playing .kick = false ∧ (done (.trig .kick F32.one) State.reset).voices.playing .kick = true)
    ∧ (ending.voices.playing .rimshot = true ∧ (done .sample ending).voices.playing .rimshot = false)
    ∧ ((State.reset.setErr true).mixer.cmdErr = true ∧ (done .status (State.reset.setErr true)).mixer.cmdErr = false)
    ∧ (State.reset.mixer.cmdErr = false ∧ (done (.setmv ⟨0x7F800000⟩) State.reset).mixer.cmdErr = true)
    ∧ (done (.setp .tom .tuning F32.one) State.reset).voices.registers ≠ State.reset.voices.registers
    ∧ (done (.setmv F32.one) State.reset).mixer.master ≠ State.reset.mixer.master
    ∧ ticked.mixer.rng ≠ allSounding.mixer.rng := by decide +kernel

end Sys2Proof.Tests
end

