-- ==== Sys2Proof/Proofs/StatusWord.lean ====
section
/-!
The STATUS command (rules R55, R315): the bits of a flag, of the ACTIVE field and of the STATUS word, then what STATUS
answers.
-/

namespace Sys2Proof

/-! ### The voices' identifiers (rule R21) -/

theorem Voice.mem_all (v : Voice) : v ∈ Voice.all := by cases v <;> decide

theorem Voice.code_lt (v : Voice) : v.code.toNat < 10 := by cases v <;> decide

theorem Voice.code_toNat_inj {v w : Voice} : v.code.toNat = w.code.toNat ↔ v = w := by
  refine ⟨fun h => ?_, fun h => h ▸ rfl⟩
  have codes : Voice.ofCode v.code = Voice.ofCode w.code := congrArg Voice.ofCode (BitVec.eq_of_toNat_eq h)
  simpa using codes

end Sys2Proof

namespace Sys2Proof.Machine

/-! ### The bits of the STATUS word (rule R55) -/

/-- A flag at bit `i` of a word shows at bit `i` and nowhere else. -/
theorem getLsbD_flagBit (b : Bool) {i : Nat} (hi : i < 32) (k : Nat) :
    (flagBit b i).getLsbD k = (b && decide (i = k)) := by
  cases b with
  | false => simp [flagBit]
  | true =>
    have inside : i = k → k < 32 := fun h => h ▸ hi
    rw [flagBit, if_pos rfl, BitVec.getLsbD_ofNat, Nat.testBit_two_pow]
    simpa using inside

/-- A bit of the ACTIVE field is set by a Sounding voice whose identifier it is. -/
theorem getLsbD_activeField (vs : Voices) (k : Nat) :
    (activeField vs).getLsbD k = Voice.all.any (fun v => vs.playing v && decide (v.code.toNat = k)) := by
  simp [activeField, getLsbD_flagBit, Voice.all, Voices.playing, Voice.code, Bool.or_assoc]

/-- Bit v of the ACTIVE field is the Sounding flag of voice v, as no two voices share an identifier. -/
theorem getLsbD_activeField_code (vs : Voices) (v : Voice) :
    (activeField vs).getLsbD v.code.toNat = vs.playing v := by
  rw [getLsbD_activeField, Bool.eq_iff_iff]
  simp [Voice.code_toNat_inj, Voice.mem_all]

/-- The ACTIVE field has no bit above the ten voices' own. -/
theorem getLsbD_activeField_of_le (vs : Voices) {k : Nat} (hk : 10 ≤ k) : (activeField vs).getLsbD k = false := by
  have above (v : Voice) : v.code.toNat ≠ k := (v.code_lt.trans_le hk).ne
  simp [getLsbD_activeField, above]

/-- A bit of the STATUS word comes from the ACTIVE field or, at bit 16, from the error flag. -/
theorem getLsbD_statusWord (s : State) (k : Nat) :
    (statusWord s).getLsbD k = ((activeField s.voices).getLsbD k || (s.mixer.cmdErr && decide (16 = k))) := by
  rw [statusWord, BitVec.getLsbD_or, getLsbD_flagBit _ (by decide)]

/-- The error flag's bit lies above every voice's, so bit v is the Sounding flag of voice v alone. -/
theorem getLsbD_statusWord_code (s : State) (v : Voice) :
    (statusWord s).getLsbD v.code.toNat = s.voices.playing v := by
  have below : 16 ≠ v.code.toNat := (v.code_lt.trans (by decide)).ne'
  simp [getLsbD_statusWord, getLsbD_activeField_code, below]

theorem getLsbD_statusWord_err (s : State) : (statusWord s).getLsbD 16 = s.mixer.cmdErr := by
  rw [getLsbD_statusWord, getLsbD_activeField_of_le _ (by decide)]
  simp

theorem getLsbD_statusWord_rest (s : State) {k : Nat} (hk : 10 ≤ k) (hne : k ≠ 16) :
    (statusWord s).getLsbD k = false := by
  simp [getLsbD_statusWord, getLsbD_activeField_of_le s.voices hk, hne.symm]

/-! ### The command (rule R315) -/

/-- The word 0x40000000 is the command word of STATUS, which ignores its data word (rules R104, R106). -/
theorem decode_status_word (dw : Word) : decode .control 0x40000000 dw = .ok .status := by
  have word_eq : Instr.cw .status = 0x40000000 := by decide
  rw [← word_eq]
  exact decode_cw .status dw

/-- Settles O12: the response is `statusWord` of the state before the clear, read bit by bit. -/
theorem statusReadsAndClears : Obligations.StatusReadsAndClears :=
  ⟨decode_status_word, fun s => ⟨statusWord s, exec_status s, getLsbD_statusWord_code s, getLsbD_statusWord_err s,
    fun _ hk hne => getLsbD_statusWord_rest s hk hne⟩⟩

end Sys2Proof.Machine
end

