-- ==== Sys2Proof/Proofs/DataWord.lean ====
section
/-!
The data word of a command (rules R104, R317): the commands that ignore it, and the finite check of those that read it.
-/

namespace Sys2Proof

/-! ### The finite check (rule R317) -/

/-- A word is the pattern of an infinity or a NaN exactly when its exponent field is all ones. -/
theorem F32.isFinite_eq_false_iff (dw : Word) : (F32.mk dw).isFinite = false ↔ dw.extractLsb' 23 8 = 0xFF#8 := by
  simp [F32.isFinite, F32.expo, BitVec.toNat_eq, Nat.shiftRight_eq_div_pow]

/-- The last check rejects exactly the words whose exponent field is all ones. -/
theorem withFinite_eq_error_iff (dw : Word) (f : F32 → Instr) :
    withFinite dw f = .error .notFinite ↔ dw.extractLsb' 23 8 = 0xFF#8 := by
  rw [← F32.isFinite_eq_false_iff]
  obtain ⟨finite, answer⟩ | ⟨notFinite, answer⟩ := withFinite_cases dw f
  · simp [finite, answer]
  · simp [notFinite, answer]

/-- The last check lets every other word through. -/
theorem withFinite_eq_ok {dw : Word} (h : dw.extractLsb' 23 8 ≠ 0xFF#8) (f : F32 → Instr) :
    withFinite dw f = .ok (f ⟨dw⟩) := by
  rw [ne_eq, ← F32.isFinite_eq_false_iff] at h
  obtain ⟨_, answer⟩ | ⟨notFinite, _⟩ := withFinite_cases dw f
  · exact answer
  · exact absurd notFinite h

/-! ### The two kinds of command (rule R104) -/

/-- The command with another value in the place of its data word; one that ignores its data word stays. -/
def Instr.withValue (i : Instr) (val : F32) : Instr :=
  match i with
  | .trig v _ => .trig v val
  | .setp v p _ => .setp v p val
  | .setmv _ => .setmv val
  | _ => i

theorem Instr.dw_withValue {i : Instr} (reads : i.readsData = true) (val : F32) : (i.withValue val).dw = val.bits := by
  cases i with
  | trig | setp | setmv => rfl
  | nop | status | mixrd | sample => cases reads

/-- A command word whose operation ignores the data word decodes with any data word. -/
theorem decode_cw_of_ignores {i : Instr} (ignores : i.readsData = false) (dw : Word) :
    decode i.port i.cw dw = .ok i := by
  rw [decode_cw]
  cases i with
  | trig | setp | setmv => cases ignores
  | nop | status | mixrd | sample => rfl

/-- Of a well-formed command that reads its data word only the finite check is left: a SETP's pair is a register. -/
theorem decode_cw_of_reads {i : Instr} (wf : i.wellFormed = true) (reads : i.readsData = true) (dw : Word) :
    decode i.port i.cw dw = withFinite dw i.withValue := by
  rw [decode_cw]
  cases i with
  | trig v _ => exact decodeOperands_trig v dw 0
  | setp v p _ =>
    have register : (regOf v p).isSome = true := (Bool.and_eq_true_iff.mp wf).1
    exact decodeOperands_setp register dw
  | setmv => rfl
  | nop | status | mixrd | sample => cases reads

/-- Settles O4: a command that reads its data word leaves the decoder with the finite check alone. -/
theorem dataWordIsIgnoredOrMustBeFinite : Obligations.DataWordIsIgnoredOrMustBeFinite := by
  intro i dw wf
  refine ⟨fun ignores => decode_cw_of_ignores ignores dw, fun reads => ?_⟩
  rw [decode_cw_of_reads wf reads]
  exact ⟨withFinite_eq_error_iff dw _, fun finite => ⟨_, withFinite_eq_ok finite _, Instr.dw_withValue reads _⟩⟩

end Sys2Proof
end

