-- ==== Sys2Proof/Proofs/SetpSnare.lean ====
section
/-!
SETP of the Snare's two registers (rule R222): the words of a register write, what each register's write does to the
Snare's record, and the rule's two examples.
-/

namespace Sys2Proof

/-! ### The words of a register write (rules R107, R112) -/

/-- The command word of a register's pair, with the pattern of a finite value, decodes to the write of that value. -/
theorem decode_setp_of_register {v : Voice} {p : Param} {r : Reg} (hr : regOf v p = some r) {val : F32}
    (finite : val.isFinite = true) : decode .control (Instr.setp v p val).cw val.bits = .ok (.setp v p val) := by
  have register : (regOf v p).isSome = true := by rw [hr]; rfl
  have operands : decode .control (Instr.setp v p val).cw val.bits = withFinite val.bits (.setp v p) :=
    (decode_cw (.setp v p val) val.bits).trans (decodeOperands_setp register val.bits)
  obtain ⟨_, accepted⟩ | ⟨notFinite, _⟩ := withFinite_cases val.bits (.setp v p)
  · exact operands.trans accepted
  · exact absurd finite (ne_true_of_eq_false notFinite)

/-- A SETP's command word is the operation and its pair; the value stands in the data word. -/
theorem cw_setp (v : Voice) (p : Param) (val : F32) :
    (Instr.setp v p val).cw = commandWord Op.setp.code v.code p.code := rfl

theorem cw_setp_snare_tone (val : F32) : (Instr.setp .snare .tone val).cw = 0x21100000 :=
  (cw_setp .snare .tone val).trans (by decide)

theorem cw_setp_snare_snappy (val : F32) : (Instr.setp .snare .snappy val).cw = 0x21300000 :=
  (cw_setp .snare .snappy val).trans (by decide)

/-! ### The two setters (rule R222) -/

/-- ENV_SETDECAY keeps a decay at or above TIME_MIN_MS and writes nothing else (rule R165). -/
theorem Env.setDecay_reference (e : Env) (ms : F32) :
    e.setDecay reference ms = { e with decayMs := reference.max ms (F32.lit 1 1) } := rfl

theorem snapDecay_reference (x : F32) :
    reference.snapDecay x = reference.add (F32.lit 50 0)
      (reference.mul x (reference.sub (F32.lit 300 0) (F32.lit 50 0))) := rfl

theorem Snare.setTone_reference (n : Snare) (val : F32) :
    n.setTone reference val = { n with tone := reference.clamp val (F32.lit 0 0) (F32.lit 1 0) } := rfl

theorem Snare.setSnappy_reference (n : Snare) (val : F32) :
    n.setSnappy reference val = { n with
      snappy := reference.clamp val (F32.lit 0 0) (F32.lit 1 0)
      snapEnv := n.snapEnv.setDecay reference
        (reference.snapDecay (reference.clamp val (F32.lit 0 0) (F32.lit 1 0))) } := rfl

end Sys2Proof

namespace Sys2Proof.Machine

/-! ### The rule's examples -/

/-- At the reset value 0.8 of the register the noise envelope's decay is 250 ms, after rounding. -/
theorem reset_snare_snapEnv_decayMs : State.reset.voices.snare.snapEnv.decayMs = F32.lit 250 0 := by decide +kernel

/-- A tone of -3.0 is stored as 0.0, the bound it passes. -/
theorem clamp_neg_three_unit : reference.clamp (F32.lit 3 0).neg (F32.lit 0 0) (F32.lit 1 0) = F32.lit 0 0 := by
  decide +kernel

/-! ### The command -/

theorem exec_setp_snare_tone {val : F32} (finite : val.isFinite = true) (s : State) :
    exec (.setp .snare .tone val) s = .next { s with
      voices := { s.voices with snare := s.voices.snare.setTone reference val }
      out := ⟨.control, 0⟩ :: s.out } := exec_setp (r := .snareTone) rfl finite s

theorem exec_setp_snare_snappy {val : F32} (finite : val.isFinite = true) (s : State) :
    exec (.setp .snare .snappy val) s = .next { s with
      voices := { s.voices with snare := s.voices.snare.setSnappy reference val }
      out := ⟨.control, 0⟩ :: s.out } := exec_setp (r := .snareSnappy) rfl finite s

/-- Settles O20: each word is its register's command word, and each effect is its register's setter on the Snare's
record. -/
theorem setpSnare : Obligations.SetpSnare := by
  refine ⟨fun val s finite => ⟨?toneWord, ?snappyWord, ?tone, ?snappy⟩, reset_snare_snapEnv_decayMs,
    clamp_neg_three_unit⟩
  case toneWord =>
    rw [← cw_setp_snare_tone val]
    exact decode_setp_of_register (r := .snareTone) rfl finite
  case snappyWord =>
    rw [← cw_setp_snare_snappy val]
    exact decode_setp_of_register (r := .snareSnappy) rfl finite
  case tone => rw [exec_setp_snare_tone finite, Snare.setTone_reference]
  case snappy =>
    rw [exec_setp_snare_snappy finite, Snare.setSnappy_reference, Env.setDecay_reference, snapDecay_reference]

end Sys2Proof.Machine
end

