-- ==== Sys2Proof/Proofs/SetpTomAndConga.lean ====
section
/-!
SETP of the Tom's and the Conga's tuning (rules R264, R272): the words of the two writes, the register's clamp as the
bridged-T's frequency, and the rules' two examples.
-/

namespace Sys2Proof

/-! ### The words (rule R112) -/

theorem cw_setp_tom_tuning (val : F32) : (Instr.setp .tom .tuning val).cw = 0x24200000 :=
  (cw_setp .tom .tuning val).trans (by decide)

theorem cw_setp_conga_tuning (val : F32) : (Instr.setp .conga .tuning val).cw = 0x25200000 :=
  (cw_setp .conga .tuning val).trans (by decide)

/-! ### The bridged-T at a frequency in range (rule R141) -/

/-- BT_SETFREQ keeps a frequency between FREQ_MIN and FREQ_MAX as it is. -/
theorem Bt.setFreq_of_within (b : Bt) {f : F32} (above : F32.le (F32.lit 1 0) f = true)
    (below : F32.le f reference.freqMax = true) : b.setFreq reference f = { b with freq := f } :=
  congrArg (fun freq => { b with freq }) (clamp_eq_self above below)

/-! ### The two setters (rules R264, R272) -/

/-- A tuning clamped to a range between FREQ_MIN and FREQ_MAX reaches the bridged-T without another clamp. -/
theorem drumRetune_clamp (d : Drum) {val lo hi : F32} (finite : val.isFinite = true)
    (above : F32.le (F32.lit 1 0) lo = true) (ordered : F32.le lo hi = true)
    (below : F32.le hi reference.freqMax = true) :
    drumRetune reference { d with tuning := reference.clamp val lo hi } = { d with
      tuning := reference.clamp val lo hi
      bt := { d.bt with freq := reference.clamp val lo hi } } := by
  obtain ⟨from_lo, to_hi⟩ := clamp_within val ordered (F32.isNaN_of_isFinite finite)
  rw [drumRetune, Bt.setFreq_of_within d.bt (F32.le_trans above from_lo) (F32.le_trans to_hi below)]

/-- The Tom's tuning range, 120 to 200 Hz, lies between FREQ_MIN and FREQ_MAX. -/
theorem tomSetTuning_reference (d : Drum) {val : F32} (finite : val.isFinite = true) :
    tomSetTuning reference d val = { d with
      tuning := reference.clamp val (F32.lit 120 0) (F32.lit 200 0)
      bt := { d.bt with freq := reference.clamp val (F32.lit 120 0) (F32.lit 200 0) } } :=
  drumRetune_clamp d finite (by decide +kernel) (by decide +kernel) (by decide +kernel)

/-- The Conga's tuning range, 250 to 400 Hz, lies between FREQ_MIN and FREQ_MAX. -/
theorem congaSetTuning_reference (d : Drum) {val : F32} (finite : val.isFinite = true) :
    congaSetTuning reference d val = { d with
      tuning := reference.clamp val (F32.lit 250 0) (F32.lit 400 0)
      bt := { d.bt with freq := reference.clamp val (F32.lit 250 0) (F32.lit 400 0) } } :=
  drumRetune_clamp d finite (by decide +kernel) (by decide +kernel) (by decide +kernel)

/-! ### The rules' examples -/

/-- A Tom's tuning of 100 Hz is stored as 120 Hz, the bound it passes. -/
theorem clamp_hundred_tom :
    reference.clamp (F32.lit 100 0) (F32.lit 120 0) (F32.lit 200 0) = F32.lit 120 0 := by decide +kernel

/-- A Conga's tuning of 300 Hz lies in the range and is stored as it is. -/
theorem clamp_three_hundred_conga :
    reference.clamp (F32.lit 300 0) (F32.lit 250 0) (F32.lit 400 0) = F32.lit 300 0 :=
  clamp_eq_self (by decide +kernel) (by decide +kernel)

end Sys2Proof

namespace Sys2Proof.Machine

/-! ### The command -/

theorem exec_setp_tom_tuning {val : F32} (finite : val.isFinite = true) (s : State) :
    exec (.setp .tom .tuning val) s = .next { s with
      voices := { s.voices with tom := tomSetTuning reference s.voices.tom val }
      out := ⟨.control, 0⟩ :: s.out } := exec_setp (r := .tomTuning) rfl finite s

theorem exec_setp_conga_tuning {val : F32} (finite : val.isFinite = true) (s : State) :
    exec (.setp .conga .tuning val) s = .next { s with
      voices := { s.voices with conga := congaSetTuning reference s.voices.conga val }
      out := ⟨.control, 0⟩ :: s.out } := exec_setp (r := .congaTuning) rfl finite s

/-- Settles O23: each word is its register's command word, and each effect is the drum's setter. -/
theorem setpTomAndConga : Obligations.SetpTomAndConga := by
  refine ⟨fun val s finite => ⟨?tomWord, ?congaWord, ?tom, ?conga⟩, clamp_hundred_tom, clamp_three_hundred_conga⟩
  case tomWord =>
    rw [← cw_setp_tom_tuning val]
    exact decode_setp_of_register (r := .tomTuning) rfl finite
  case congaWord =>
    rw [← cw_setp_conga_tuning val]
    exact decode_setp_of_register (r := .congaTuning) rfl finite
  case tom => rw [exec_setp_tom_tuning finite, tomSetTuning_reference _ finite]
  case conga => rw [exec_setp_conga_tuning finite, congaSetTuning_reference _ finite]

end Sys2Proof.Machine
end

