-- ==== Sys2Proof/Proofs/Nop.lean ====
section
/-!
The NOP command (rule R311): its word, the step that takes a command the decoder accepts, and what NOP answers.
-/

namespace Sys2Proof.Machine

/-- The word 0x00000000 is the command word of NOP, which ignores its data word (rules R104, R106). -/
theorem decode_nop_word (dw : Word) : decode .control 0x00000000 dw = .ok .nop := by
  have word_eq : Instr.cw .nop = 0x00000000 := by decide
  rw [← word_eq]
  exact decode_cw_of_ignores (i := .nop) rfl dw

/-- A step that takes a command the decoder accepts runs it in the state still to take the rest (rules R85, R310). -/
theorem step_of_decode_ok {s : State} {port : Port} {cw dw : Word} {rest : List Input} {i : Instr}
    (taken : s.inbox = .command port cw dw :: rest) (decoded : decode port cw dw = .ok i) :
    step s = exec i (s.awaiting rest) := by
  simp only [step, fetch, taken, accept, decoded]

/-- Settles O11: the step after RESET runs the decoded NOP, whose one effect is its response. -/
theorem nopChangesNothing : Obligations.NopChangesNothing := by
  refine ⟨decode_nop_word, exec_nop, fun dw => ?_⟩
  rw [step_of_decode_ok rfl (decode_nop_word dw), exec_nop]
  rfl

end Sys2Proof.Machine
end

/-!
The round trips of the encoding (rules R82, R100 to R112): a command through its words, words through the command they
decode to, and a command through its eight bytes.
-/

namespace Sys2Proof

/-! ### From a command to its words and back -/

/-- A command with its own data word in the place of its value is the command. -/
theorem Instr.withValue_dw (i : Instr) : i.withValue ⟨i.dw⟩ = i := by cases i <;> rfl

/-- A well-formed command that reads its data word is encoded with a finite value there. -/
theorem Instr.isFinite_dw {i : Instr} (wf : i.wellFormed = true) (reads : i.readsData = true) :
    (F32.mk i.dw).isFinite = true := by
  cases i with
  | trig | setmv => exact wf
  | setp => exact (Bool.and_eq_true_iff.mp wf).2
  | nop | status | mixrd | sample => cases reads

/-- Settles O1: a command that ignores its data word decodes with any; for the others the finite check passes. -/
theorem decodeOfEncodeIsTheCommand : Obligations.DecodeOfEncodeIsTheCommand := by
  intro i wf
  rcases reads : i.readsData with _ | _
  · exact decode_cw_of_ignores reads i.dw
  · rw [decode_cw_of_reads wf reads, withFinite, if_pos (Instr.isFinite_dw wf reads), Instr.withValue_dw]

/-! ### From words to the command and back -/

theorem withFinite_ok {dw : Word} {f : F32 → Instr} {i : Instr} (h : withFinite dw f = .ok i) :
    (F32.mk dw).isFinite = true ∧ i = f ⟨dw⟩ := by
  obtain ⟨finite, answer⟩ | ⟨-, answer⟩ := withFinite_cases dw f <;> rw [answer] at h
  · exact ⟨finite, (Except.ok.inj h).symm⟩
  · cases h

/-- What the operand checks accept (rule R108, checks 4 to 6): a well-formed command of the operation, its identifiers
those of the fields the operation reads, its value the data word where it reads it. -/
theorem decodeOperands_ok {op : Op} {cw dw : Word} {i : Instr} (h : decodeOperands op cw dw = .ok i) :
    i.op = op ∧ i.wellFormed = true ∧ (i.readsData = true → i.dw = dw)
      ∧ i.cw = commandWord op.code (if op.voiceMustBeZero then 0 else voiceField cw)
          (if op.paramMustBeZero then 0 else paramField cw) := by
  cases op with
  | nop | status | mixrd | sample => cases h; exact ⟨rfl, rfl, nofun, rfl⟩
  | setmv =>
    obtain ⟨finite, rfl⟩ := withFinite_ok h
    exact ⟨rfl, finite, fun _ => rfl, rfl⟩
  | trig =>
    simp only [decodeOperands] at h
    split at h
    · cases h
    · rename_i v hv
      obtain ⟨finite, rfl⟩ := withFinite_ok h
      rw [← Voice.code_of_ofCode hv]
      exact ⟨rfl, finite, fun _ => rfl, rfl⟩
  | setp =>
    simp only [decodeOperands] at h
    split at h
    · rename_i v p hv hp
      split at h
      · rename_i register
        obtain ⟨finite, rfl⟩ := withFinite_ok h
        rw [← Voice.code_of_ofCode hv, ← Param.code_of_ofCode hp]
        exact ⟨rfl, Bool.and_eq_true_iff.mpr ⟨register, finite⟩, fun _ => rfl, rfl⟩
      · cases h
    · cases h

/-- A field that the operation wants at 0 and that passed the check is 0. -/
theorem ite_field_eq {must : Bool} {field : BitVec 4} (h : must = true → field = 0) :
    (if must then 0 else field) = field := by
  split
  · exact (h ‹_›).symm
  · rfl

/-- Settles O2: the fields that passed the checks are the command word's own, and RSV is 0. -/
theorem decodedWordsEncodeBack : Obligations.DecodedWordsEncodeBack := by
  intro port cw dw i h
  obtain ⟨op, opCode, ownPort, noRsv, noVoice, noParam, operands⟩ := decode_ok h
  obtain ⟨rfl, wf, value, word⟩ := decodeOperands_ok operands
  refine ⟨wf, (Instr.op_port i).symm.trans ownPort, ?_, value⟩
  rw [word, ite_field_eq noVoice, ite_field_eq noParam, ← opCode, commandWord_fields noRsv]

/-! ### The byte form (rule R82) -/

theorem toNat_wordOfBytes (b0 b1 b2 b3 : Byte) :
    (wordOfBytes b0 b1 b2 b3).toNat = ((b3.toNat * 256 + b2.toNat) * 256 + b1.toNat) * 256 + b0.toNat := by
  unfold wordOfBytes
  rw [BitVec.toNat_append, BitVec.toNat_append, BitVec.toNat_append, ← Nat.shiftLeft_add_eq_or_of_lt b2.isLt,
    ← Nat.shiftLeft_add_eq_or_of_lt b1.isLt, ← Nat.shiftLeft_add_eq_or_of_lt b0.isLt]
  simp only [Nat.shiftLeft_eq]

/-- A word is the word of its four bytes. -/
theorem wordOfBytes_extract (w : Word) :
    wordOfBytes (w.extractLsb' 0 8) (w.extractLsb' 8 8) (w.extractLsb' 16 8) (w.extractLsb' 24 8) = w := by
  apply BitVec.eq_of_toNat_eq
  rw [toNat_wordOfBytes]
  have := w.isLt
  simp only [BitVec.extractLsb'_toNat, Nat.shiftRight_eq_div_pow]
  omega

/-- The bytes of two words, and what follows them, decode as the two words do. -/
theorem decodeBytes_bytesOfWord (port : Port) (cw dw : Word) (rest : List Byte) :
    decodeBytes port (bytesOfWord cw ++ bytesOfWord dw ++ rest) = (decode port cw dw).map (·, rest) := by
  simp only [bytesOfWord, List.cons_append, List.nil_append, decodeBytes, wordOfBytes_extract]
  cases decode port cw dw <;> rfl

/-- Settles O3: the bytes are those of the two words, which decode to the command. -/
theorem byteFormCarriesTheCommand : Obligations.ByteFormCarriesTheCommand := by
  intro i rest wf
  rw [decodeBytes_bytesOfWord, decodeOfEncodeIsTheCommand i wf]
  rfl

/-! ### The worked words (rule R112, 95_test_vectors.md V1) -/

/-- Settles O5: each of the eighteen words is a closed fact. -/
theorem workedEncodingsDecode : Obligations.WorkedEncodingsDecode := by
  unfold Obligations.WorkedEncodingsDecode
  decide

end Sys2Proof

/-!
The step relation (rules R6, R85, R310, R314, R350, R362, R380, R382): what a step does with each kind of next input, at
any parameters and at the reference values, and the responses of a whole run.
-/

namespace Sys2Proof.Machine

section OneStep

variable (P : Params) {s : State} {rest : List Input}

theorem stepIn_of_nil (h : s.inbox = []) : stepIn P s = .next s := by simp only [stepIn, fetch, h]

theorem stepIn_of_reset (h : s.inbox = .reset :: rest) : stepIn P s = .next ((s.awaiting rest).resetBlock P) := by
  simp only [stepIn, fetch, h, accept]

theorem stepIn_of_decode_ok {port : Port} {cw dw : Word} {i : Instr} (h : s.inbox = .command port cw dw :: rest)
    (decoded : decode port cw dw = .ok i) : stepIn P s = execIn P i (s.awaiting rest) := by
  simp only [stepIn, fetch, h, accept, decoded]

theorem stepIn_of_decode_error {port : Port} {cw dw : Word} {r : Rejection}
    (h : s.inbox = .command port cw dw :: rest) (rejected : decode port cw dw = .error r) :
    stepIn P s = .next ((s.awaiting rest).reject port) := by
  simp only [stepIn, fetch, h, accept, rejected]

/-- No step faults and none is refused. -/
theorem stepIn_next (s : State) : ∃ t, stepIn P s = .next t := by
  rcases h : s.inbox with _ | ⟨_ | _, rest⟩
  case nil => exact ⟨_, stepIn_of_nil P h⟩
  case cons.reset => exact ⟨_, stepIn_of_reset P h⟩
  case cons.command port cw dw =>
    rcases decoded : decode port cw dw with r | i
    · exact ⟨_, stepIn_of_decode_error P h decoded⟩
    · rw [stepIn_of_decode_ok P h decoded]
      exact execIn_next P _ i

end OneStep

/-- Settles O6: both steps decode the same input; the reference values are the reference block's parameters. -/
theorem stepRunsTheDecodedCommand : Obligations.StepRunsTheDecodedCommand :=
  ⟨fun _ _ _ _ _ _ taken decoded =>
    ⟨step_of_decode_ok taken decoded, fun P => stepIn_of_decode_ok P taken decoded⟩, exec_eq, step_eq, rfl⟩

/-- Settles O7. -/
theorem stepRejectsWhatDoesNotDecode : Obligations.StepRejectsWhatDoesNotDecode := by
  intro s port cw dw rest r taken rejected
  exact ⟨(step_eq s).trans (stepIn_of_decode_error reference taken rejected),
    fun P => stepIn_of_decode_error P taken rejected⟩

/-- Settles O8. -/
theorem stepResetsTheBlock : Obligations.StepResetsTheBlock := by
  intro s rest taken
  exact ⟨(step_eq s).trans (stepIn_of_reset reference taken), fun P => stepIn_of_reset P taken⟩

/-- Settles O9. -/
theorem everyStepCompletes : Obligations.EveryStepCompletes := by
  refine ⟨fun s => ?_, fun s h => ?_, fun P => ⟨stepIn_next P, fun s h => stepIn_of_nil P h⟩⟩
  · rw [step_eq]; exact stepIn_next reference s
  · rw [step_eq]; exact stepIn_of_nil reference h

/-! ### Rejection and MIXRD (rules R314, R320) -/

/-- A command that is not well formed is rejected on the control port. -/
theorem execIn_of_not_wellFormed (P : Params) {i : Instr} (h : i.wellFormed = false) (s : State) :
    execIn P i s = .next (s.reject .control) := by
  cases i with
  | nop | status | mixrd | sample => cases h
  | trig v val => exact execIn_trig_not_finite P s v h
  | setmv val => exact execIn_setmv_not_finite P s h
  | setp v p val =>
    rcases register : regOf v p with _ | r
    · exact execIn_setp_no_register P s register val
    · refine execIn_setp_not_finite P s register ?_
      simpa [Instr.wellFormed, register] using h

/-- Settles O15. -/
theorem illFormedCommandsAreRejected : Obligations.IllFormedCommandsAreRejected := fun i s h =>
  (exec_eq i s).trans (execIn_of_not_wellFormed reference h s)

/-- Settles O13: RESET leaves the mixer output at the pattern 0. -/
theorem mixrdReturnsTheMixerOutput : Obligations.MixrdReturnsTheMixerOutput := ⟨exec_mixrd, exec_mixrd State.reset⟩

/-- What a well-formed command can do: its own effect, and no rejection. -/
theorem execIn_cases_of_wellFormed {P : Params} {i : Instr} {s t : State} (wf : i.wellFormed = true)
    (h : execIn P i s = .next t) :
    (i = .nop ∧ t = s.respond .control 0#32)
    ∨ (∃ v val, i = .trig v val ∧ t = (s.trigger P v val).respond .control 0#32)
    ∨ (∃ v p val r, i = .setp v p val ∧ t = (s.writeReg P r val).respond .control 0#32)
    ∨ (∃ val, i = .setmv val ∧ t = (s.setMaster P val).respond .control 0#32)
    ∨ (i = .status ∧ t = (s.setErr false).respond .control (statusWord s))
    ∨ (i = .mixrd ∧ t = s.respond .control s.mixer.mix.bits)
    ∨ (i = .sample ∧ t = (s.tick P).respond .audio (sampleWord P ((s.runs P).mix P s.mixer.master))) := by
  cases i with
  | nop => cases h; exact .inl ⟨rfl, rfl⟩
  | trig v val =>
    rw [execIn_trig P s v wf] at h
    cases h
    exact .inr (.inl ⟨v, val, rfl, rfl⟩)
  | setp v p val =>
    obtain ⟨register, finite⟩ := Bool.and_eq_true_iff.mp wf
    obtain ⟨r, hr⟩ := Option.isSome_iff_exists.mp register
    rw [execIn_setp P s hr finite] at h
    cases h
    exact .inr (.inr (.inl ⟨v, p, val, r, rfl, rfl⟩))
  | setmv val =>
    rw [execIn_setmv P s wf] at h
    cases h
    exact .inr (.inr (.inr (.inl ⟨val, rfl, rfl⟩)))
  | status => cases h; exact .inr (.inr (.inr (.inr (.inl ⟨rfl, rfl⟩))))
  | mixrd => cases h; exact .inr (.inr (.inr (.inr (.inr (.inl ⟨rfl, rfl⟩)))))
  | sample => cases h; exact .inr (.inr (.inr (.inr (.inr (.inr ⟨rfl, rfl⟩)))))

/-! ### A whole run (rules R85, R100, R310) -/

/-- The two lists a run is counted by: what is still to be taken, and the ports answered so far, newest first. -/
def State.traffic (s : State) : List Input × List Port := (s.inbox, s.out.map Response.port)

/-- A well-formed command takes no input and gives one response, on its own port. -/
theorem execIn_traffic {P : Params} {i : Instr} (wf : i.wellFormed = true) {s t : State}
    (h : execIn P i s = .next t) : t.traffic = (s.inbox, i.port :: s.out.map Response.port) := by
  obtain ⟨rfl, rfl⟩ | ⟨v, val, rfl, rfl⟩ | ⟨v, p, val, r, rfl, rfl⟩ | ⟨val, rfl, rfl⟩ | ⟨rfl, rfl⟩ | ⟨rfl, rfl⟩
    | ⟨rfl, rfl⟩ := execIn_cases_of_wellFormed wf h
  all_goals rfl

/-- A step takes the next input, and gives one response if it is a command, on the port that issued it. -/
theorem stepIn_traffic {P : Params} {s t : State} {x : Input} {rest : List Input} (taken : s.inbox = x :: rest)
    (h : stepIn P s = .next t) : t.traffic = (rest, x.issuer.toList ++ s.out.map Response.port) := by
  cases x with
  | reset =>
    rw [stepIn_of_reset P taken] at h
    cases h
    rfl
  | command port cw dw =>
    rcases decoded : decode port cw dw with r | i
    · rw [stepIn_of_decode_error P taken decoded] at h
      cases h
      rfl
    · obtain ⟨wf, rfl, -, -⟩ := decodedWordsEncodeBack port cw dw i decoded
      rw [stepIn_of_decode_ok P taken decoded] at h
      exact execIn_traffic wf h

/-- As many steps as there are inputs take all of them, each command answered once, in order. -/
theorem run_traffic (B : Instance) : ∀ (inbox : List Input) (s : State), s.inbox = inbox →
    ∃ t : State, B.block.run inbox.length s = .next t
      ∧ t.traffic = ([], (inbox.filterMap Input.issuer).reverse ++ s.out.map Response.port)
  | [], s, h => ⟨s, rfl, by simp [State.traffic, h]⟩
  | x :: rest, s, h => by
    obtain ⟨u, one⟩ := stepIn_next B.params s
    obtain ⟨inbox, out⟩ := Prod.mk.inj (stepIn_traffic h one)
    obtain ⟨t, more, answered⟩ := run_traffic B rest u inbox
    refine ⟨t, (run_next B.block rest.length one).trans more, ?_⟩
    rw [answered, out]
    cases x <;> simp [Input.issuer, List.filterMap_cons]

/-- The host's machine runs as the block at the reference values does. -/
theorem core_run_eq (n : Nat) (s : State) :
    (Sys2Proof.core.run n s : Host.Outcome State Fault Refusal) = referenceInstance.block.run n s := by
  induction n generalizing s with
  | zero => rfl
  | succ n ih =>
    obtain ⟨t, one⟩ := stepIn_next reference s
    have host : Sys2Proof.core.run (n + 1) s = Sys2Proof.core.run n t :=
      run_next Sys2Proof.core n ((step_eq s).trans one)
    have block : referenceInstance.block.run (n + 1) s = referenceInstance.block.run n t :=
      run_next referenceInstance.block n one
    exact (host.trans (ih t)).trans block.symm

/-- Settles O10: the run of any legal block, of which the host's machine is one. -/
theorem everyCommandIsAnswered : Obligations.EveryCommandIsAnswered := by
  intro s
  have answered (B : Instance) : ∃ t : State, B.block.run s.inbox.length s = .next t ∧ t.inbox = []
      ∧ t.out.map Response.port = (s.inbox.filterMap Input.issuer).reverse ++ s.out.map Response.port := by
    obtain ⟨t, run, traffic⟩ := run_traffic B s.inbox s rfl
    exact ⟨t, run, Prod.mk.inj traffic⟩
  obtain ⟨t, run, all⟩ := answered referenceInstance
  exact ⟨⟨t, (core_run_eq _ s).trans run, all⟩, answered⟩

end Sys2Proof.Machine

/-!
One tick of a Sounding voice at any parameters (rules R210 to R300): VOICE_PROCESS of each voice as one equation, its
output, noise word and whole record.
-/

namespace Sys2Proof

section SoundingTick

variable (P : Params) (r : Word)

theorem kick_process {k : Kick} (h : k.isPlaying = true) :
    voiceProcess kickTemplate P r k =
      let bt := k.bt.setFreq P (k.pitch P)
      let lp := k.lp.lowPass P (bt.out P)
      let d := k.ampEnv.doneNext P
      { out := k.proc.run P (P.mul k.vel
          (P.mul (k.ampEnv.level P) (P.add lp.1 (P.mul P.cfg.kickSubW (k.sub.sineOut P)))))
        rng := r
        voice := { k with
          isPlaying := !d, bt := bt.next P, lp := lp.2, sub := k.sub.advance P
          ampEnv := k.ampEnv.aged d, pitchEnv := k.pitchEnv.aged d } } := by
  rw [voiceProcess_sounding kickTemplate P r h]
  exact congrArg (Run.mk _ _) (kick_settle P (kickTemplate.graph P r k).voice h)

theorem snare_process {n : Snare} (h : n.isPlaying = true) :
    voiceProcess snareTemplate P r n =
      let t := P.add (P.mul (F32.lit 5 1) (n.bt1.out P)) (P.mul (F32.lit 5 1) (n.bt2.out P))
      let hp := n.hp.highPass P (P.mul n.noise.amp (drawOf P (rngNext r)))
      let d := n.toneEnv.doneNext P && n.snapEnv.doneNext P
      { out := n.proc.run P (P.mul n.vel
          (P.add (P.mul n.tone (P.mul t (n.toneEnv.level P))) (P.mul hp.1 (n.snapEnv.level P))))
        rng := rngNext r
        voice := { n with
          isPlaying := !d, bt1 := n.bt1.next P, bt2 := n.bt2.next P, hp := hp.2
          toneEnv := n.toneEnv.aged d, snapEnv := n.snapEnv.aged d } } := by
  rw [voiceProcess_sounding snareTemplate P r h]
  exact congrArg (Run.mk _ _) (snare_settle P (snareTemplate.graph P r n).voice h)

theorem cymbal_process {c : Cymbal} (h : c.isPlaying = true) :
    voiceProcess cymbalTemplate P r c =
      let f1 := c.bp1.bandPass P (c.osc.average P).1
      let f2 := c.bp2.bandPass P (c.osc.average P).1
      let hp := c.hp.highPass P (P.add (P.mul P.cfg.cymW1 f1.1) (P.mul P.cfg.cymW2 f2.1))
      let d := c.env.doneNext P
      { out := c.proc.run P (P.mul c.vel (P.mul hp.1 (c.env.level P)))
        rng := r
        voice := { c with
          isPlaying := !d, osc := c.osc.map (Osc.advance P), bp1 := f1.2, bp2 := f2.2, hp := hp.2
          env := c.env.aged d } } := by
  rw [voiceProcess_sounding cymbalTemplate P r h]
  exact congrArg (Run.mk _ _) (cymbal_settle P (cymbalTemplate.graph P r c).voice h)

theorem hihat_process {c : Hihat} (h : c.isPlaying = true) :
    voiceProcess hihatTemplate P r c =
      let f := c.bp.bandPass P (c.osc.average P).1
      let hp := c.hp.highPass P f.1
      let d := c.env.doneNext P
      { out := c.proc.run P (P.mul c.vel (P.mul hp.1 (c.env.level P)))
        rng := r
        voice := { c with
          isPlaying := !d, osc := c.osc.map (Osc.advance P), bp := f.2, hp := hp.2, env := c.env.aged d } } := by
  rw [voiceProcess_sounding hihatTemplate P r h]
  exact congrArg (Run.mk _ _) (hihat_settle P (hihatTemplate.graph P r c).voice h)

/-- What one draw puts into a drum's pink-noise memory (rule R139). -/
def Drum.pinkNext (P : Params) (r : Word) (g : Drum) : F32 := g.pinkOsc.pinkStep P (drawOf P (rngNext r))

/-- The output of a Sounding drum whose noise layer has the weight `w` (rules R210, R260, R270). -/
def Drum.output (P : Params) (w : F32) (r : Word) (g : Drum) : F32 :=
  g.proc.run P (P.mul g.vel (P.add (P.mul (g.bt.out P) (g.toneEnv.level P))
    (P.mul w (P.mul (g.lp.lpOut P (P.mul g.pinkOsc.amp (g.pinkNext P r))) (g.noiseEnv.level P)))))

/-- The record of a Sounding drum after its tick, before the Tom's bend (rules R210, R260, R270). -/
def Drum.after (P : Params) (r : Word) (g : Drum) : Drum :=
  let d := g.toneEnv.doneNext P && g.noiseEnv.doneNext P
  { g with
    isPlaying := !d, bt := g.bt.next P, pinkOsc := { g.pinkOsc with pink := g.pinkNext P r }
    lp := { g.lp with y1 := g.lp.lpOut P (P.mul g.pinkOsc.amp (g.pinkNext P r)) }
    toneEnv := g.toneEnv.aged d, noiseEnv := g.noiseEnv.aged d }

theorem conga_process {g : Drum} (h : g.isPlaying = true) :
    voiceProcess congaTemplate P r g = ⟨g.output P P.cfg.congaNoiseW r, rngNext r, g.after P r⟩ := by
  rw [voiceProcess_sounding congaTemplate P r h, conga_settle]
  exact congrArg (Run.mk _ _) (tom_settle P (congaTemplate.graph P r g).voice h)

theorem tom_process {g : Drum} (h : g.isPlaying = true) :
    voiceProcess tomTemplate P r g = ⟨g.output P P.cfg.tomNoiseW r, rngNext r, tomBend P (g.after P r)⟩ := by
  rw [voiceProcess_sounding tomTemplate P r h]
  exact congrArg (Run.mk _ _) (tom_settle P (tomTemplate.graph P r g).voice h)

theorem rimshot_process {m : Rimshot} (h : m.isPlaying = true) :
    voiceProcess rimshotTemplate P r m =
      let g := P.add (P.mul (P.sub F32.one m.inh.mix) (m.inh.o1.sineOut P)) (P.mul m.inh.mix (m.inh.o2.sineOut P))
      let hp := m.hp.highPass P g
      let d := m.env.doneNext P
      { out := m.proc.run P (P.mul m.vel (P.mul hp.1 (m.env.level P)))
        rng := r
        voice := { m with
          isPlaying := !d, hp := hp.2, env := m.env.aged d
          inh := { m.inh with o1 := m.inh.o1.advance P, o2 := m.inh.o2.advance P } } } := by
  rw [voiceProcess_sounding rimshotTemplate P r h]
  exact congrArg (Run.mk _ _) (rimshot_settle P (rimshotTemplate.graph P r m).voice h)

theorem maracas_process {m : Maracas} (h : m.isPlaying = true) :
    voiceProcess maracasTemplate P r m =
      let hp := m.hp.highPass P (P.mul m.noise.amp (drawOf P (rngNext r)))
      let d := m.env.doneNext P
      { out := m.proc.run P (P.mul m.vel (P.mul hp.1 (m.env.level P)))
        rng := rngNext r
        voice := { m with isPlaying := !d, hp := hp.2, env := m.env.aged d } } := by
  rw [voiceProcess_sounding maracasTemplate P r h]
  exact congrArg (Run.mk _ _) (maracas_settle P (maracasTemplate.graph P r m).voice h)

/-- CLAP_BURST writes neither the flag nor what the rest of the graph reads of the record. -/
theorem Clap.burst_isPlaying (p : Clap) : (p.burst P).isPlaying = p.isPlaying := by unfold Clap.burst; split <;> rfl

/-- A Sounding Clap's tick is the tick of the record that CLAP_BURST leaves, with its count of ticks since the last
burst (rules R288, R291). -/
theorem clap_process {p : Clap} (h : p.isPlaying = true) :
    voiceProcess clapTemplate P r p =
      let c := p.burst P
      let bp := c.bp.bandPass P (P.mul c.noise.amp (drawOf P (rngNext r)))
      let d := c.sawEnv.doneNext P && c.revEnv.doneNext P && c.burstsLeft == 0
      { out := p.proc.run P (P.mul p.vel (P.mul bp.1 (P.add (c.sawEnv.level P) (c.revEnv.level P))))
        rng := rngNext r
        voice := { c with
          isPlaying := !d, bp := bp.2, sawEnv := c.sawEnv.aged d, revEnv := c.revEnv.aged d
          burstAge := satInc c.burstAge } } := by
  have sounding : (p.burst P).isPlaying = true := (p.burst_isPlaying P).trans h
  rw [voiceProcess_sounding clapTemplate P r h]
  exact congrArg (Run.mk _ _) (clap_settle P (clapTemplate.graph P r p).voice sounding)

theorem cowbell_process {b : Cowbell} (h : b.isPlaying = true) :
    voiceProcess cowbellTemplate P r b =
      let m := P.add (P.mul P.cfg.cowW1 (b.o1.squareOut P)) (P.mul P.cfg.cowW2 (b.o2.squareOut P))
      let f := b.bp.bandPass P m
      let hp := b.hp.highPass P f.1
      let d := b.env.doneNext P
      { out := b.proc.run P (P.mul b.vel (P.mul hp.1 (b.env.level P)))
        rng := r
        voice := { b with
          isPlaying := !d, o1 := b.o1.advance P, o2 := b.o2.advance P, bp := f.2, hp := hp.2
          env := b.env.aged d } } := by
  rw [voiceProcess_sounding cowbellTemplate P r h]
  exact congrArg (Run.mk _ _) (cowbell_settle P (cowbellTemplate.graph P r b).voice h)

end SoundingTick

end Sys2Proof

/-!
The voices' ticks in a SAMPLE at the reference values, and what SAMPLE makes of them (rules R210 to R300, R319 to R322).
-/

namespace Sys2Proof

theorem negOne_eq : F32.negOne = (F32.lit 1 0).neg := by decide

theorem tomBend_reference (d : Drum) :
    tomBend reference d = { d with bt := { d.bt with
      freq := reference.clamp (reference.mul d.bt.freq (F32.lit 95 2)) (F32.lit 1 0) reference.freqMax } } := rfl

/-- BT_GEN keeps the frequency (rule R143). -/
@[simp] theorem Bt.next_freq (P : Params) (b : Bt) : (b.next P).freq = b.freq := by unfold Bt.next; split <;> rfl

/-- The test of CLAP_BURST at the reference values: 15 ms since the last burst (rule R291). -/
theorem Clap.burstDue_iff (c : Clap) : c.burstDue reference = true ↔
    0 < c.burstsLeft ∧ F32.le (F32.lit 15 0) (reference.mul (reference.ofWord c.burstAge) reference.tsMs) = true := by
  simp only [Clap.burstDue, Bool.and_eq_true, decide_eq_true_eq, reference_le, Params.timeOf, reference_cfg,
    referenceCfg]

/-- CLAP_BURST at the reference values: what a due burst restarts, counts off and clears. -/
theorem Clap.burst_reference (c : Clap) : c.burst reference =
    let due := 0 < c.burstsLeft ∧ F32.le (F32.lit 15 0) (reference.mul (reference.ofWord c.burstAge) reference.tsMs) = true
    { c with
      sawEnv := if due then c.sawEnv.trigger else c.sawEnv
      burstsLeft := if due then c.burstsLeft - 1 else c.burstsLeft
      burstAge := if due then 0 else c.burstAge } := by
  rcases due : c.burstDue reference with _ | _
  · rw [clap_burst_not_due due]
    rw [← Bool.not_eq_true, Clap.burstDue_iff] at due
    simp only [if_neg due]
  · rw [clap_burst_due due]
    rw [Clap.burstDue_iff] at due
    simp only [if_pos due]
    rfl

end Sys2Proof

namespace Sys2Proof.Machine

/-! ### The runs of a tick (rule R321) -/

section Runs

variable (P : Params) (s : State)

theorem runs_kick : (s.runs P).kick = voiceProcess kickTemplate P s.mixer.rng s.voices.kick := rfl

theorem runs_snare : (s.runs P).snare = voiceProcess snareTemplate P (s.runs P).kick.rng s.voices.snare := rfl

theorem runs_cymbal : (s.runs P).cymbal = voiceProcess cymbalTemplate P (s.runs P).snare.rng s.voices.cymbal := rfl

theorem runs_hihat : (s.runs P).hihat = voiceProcess hihatTemplate P (s.runs P).cymbal.rng s.voices.hihat := rfl

theorem runs_tom : (s.runs P).tom = voiceProcess tomTemplate P (s.runs P).hihat.rng s.voices.tom := rfl

theorem runs_conga : (s.runs P).conga = voiceProcess congaTemplate P (s.runs P).tom.rng s.voices.conga := rfl

theorem runs_rimshot : (s.runs P).rimshot = voiceProcess rimshotTemplate P (s.runs P).conga.rng s.voices.rimshot := rfl

theorem runs_maracas : (s.runs P).maracas = voiceProcess maracasTemplate P (s.runs P).rimshot.rng s.voices.maracas := rfl

theorem runs_clap : (s.runs P).clap = voiceProcess clapTemplate P (s.runs P).maracas.rng s.voices.clap := rfl

theorem runs_cowbell : (s.runs P).cowbell = voiceProcess cowbellTemplate P (s.runs P).clap.rng s.voices.cowbell := rfl

end Runs

/-! ### SAMPLE (rules R319, R321, R322) -/

/-- Settles O24. -/
theorem sampleMixesTheVoices : Obligations.SampleMixesTheVoices := by
  intro s
  rw [← negOne_eq, lit_one]
  exact ⟨_, exec_sample s, rfl, rfl, rfl, rfl, rfl, rfl, rfl⟩

/-! ### The ticks of the voices -/

/-- Settles O27: the pitch envelope's frequency reaches the bridged-T through its clamp. -/
theorem kickTick : Obligations.KickTick := by
  unfold Obligations.KickTick
  rw [lit_one]
  intro s h
  dsimp only
  rw [runs_kick, kick_process reference s.mixer.rng h]
  exact ⟨rfl, rfl, rfl⟩

/-- Settles O28. -/
theorem snareTick : Obligations.SnareTick := by
  intro s h
  dsimp only
  rw [runs_snare, snare_process reference _ h]
  exact ⟨rfl, rfl, rfl⟩

/-- Settles O29. -/
theorem cymbalAndHihatTick : Obligations.CymbalAndHihatTick := by
  refine fun s => ⟨fun h => ?cymbal, fun h => ?hihat⟩
  case cymbal =>
    rw [runs_cymbal, cymbal_process reference _ h]
    exact ⟨rfl, rfl, rfl⟩
  case hihat =>
    rw [runs_hihat, hihat_process reference _ h]
    exact ⟨rfl, rfl, rfl⟩

/-- Settles O30. -/
theorem tomAndCongaTick : Obligations.TomAndCongaTick := by
  refine fun s => ⟨fun h => ?tom, fun h => ?conga⟩
  case tom =>
    rw [runs_tom, tom_process reference _ h, tomBend_reference]
    refine ⟨rfl, rfl, ?_⟩
    simp only [Drum.after, Bt.next_freq]
    rfl
  case conga =>
    rw [runs_conga, conga_process reference _ h]
    exact ⟨rfl, rfl, rfl⟩

/-- Settles O31. -/
theorem rimshotMaracasCowbellTick : Obligations.RimshotMaracasCowbellTick := by
  unfold Obligations.RimshotMaracasCowbellTick
  rw [lit_one]
  refine fun s => ⟨fun h => ?rimshot, fun h => ?maracas, fun h => ?cowbell⟩
  case rimshot =>
    rw [runs_rimshot, rimshot_process reference _ h]
    exact ⟨rfl, rfl, rfl⟩
  case maracas =>
    rw [runs_maracas, maracas_process reference _ h]
    exact ⟨rfl, rfl, rfl⟩
  case cowbell =>
    rw [runs_cowbell, cowbell_process reference _ h]
    exact ⟨rfl, rfl, rfl⟩

/-- Settles O32: the tick is that of the record CLAP_BURST leaves. -/
theorem clapTick : Obligations.ClapTick := by
  intro s h
  dsimp only
  rw [runs_clap, clap_process reference _ h, Clap.burst_reference]
  exact ⟨rfl, rfl, rfl⟩

end Sys2Proof.Machine

/-!
Idle voices and the noise word in a tick (rules R210, R319, R321, R389): what an Idle voice contributes, how many draws a
tick makes, and that without a draw the tick does not depend on the noise word.
-/

namespace Sys2Proof

/-! ### Views of a tick's runs -/

/-- The output of voice `v`'s run. -/
def Tick.outOf (t : Tick) : Voice → F32
  | .kick => t.kick.out
  | .snare => t.snare.out
  | .cymbal => t.cymbal.out
  | .hihat => t.hihat.out
  | .tom => t.tom.out
  | .conga => t.conga.out
  | .rimshot => t.rimshot.out
  | .maracas => t.maracas.out
  | .clap => t.clap.out
  | .cowbell => t.cowbell.out

/-- The noise word before voice `v`'s run, `r` being the word before the tick. -/
def Tick.wordBefore (r : Word) (t : Tick) : Voice → Word
  | .kick => r
  | .snare => t.kick.rng
  | .cymbal => t.snare.rng
  | .hihat => t.cymbal.rng
  | .tom => t.hihat.rng
  | .conga => t.tom.rng
  | .rimshot => t.conga.rng
  | .maracas => t.rimshot.rng
  | .clap => t.maracas.rng
  | .cowbell => t.clap.rng

/-- The noise word after voice `v`'s run. -/
def Tick.wordAfter (t : Tick) : Voice → Word
  | .kick => t.kick.rng
  | .snare => t.snare.rng
  | .cymbal => t.cymbal.rng
  | .hihat => t.hihat.rng
  | .tom => t.tom.rng
  | .conga => t.conga.rng
  | .rimshot => t.rimshot.rng
  | .maracas => t.maracas.rng
  | .clap => t.clap.rng
  | .cowbell => t.cowbell.rng

/-! ### Idle voices (rule R210) -/

/-- The three parts of an Idle voice's run. -/
theorem idle_run {V : Type} (T : Template V) (P : Params) (r : Word) {v : V} (h : T.isPlaying v = false) :
    (voiceProcess T P r v).out = F32.zero ∧ (voiceProcess T P r v).rng = r ∧ (voiceProcess T P r v).voice = v := by
  rw [voiceProcess_idle T P r h]
  exact ⟨rfl, rfl, rfl⟩

/-- An Idle voice contributes `+0.0`, makes no draw and keeps its record. -/
theorem runVoices_idle (P : Params) (r : Word) (vs : Voices) {v : Voice} (h : vs.playing v = false) :
    (runVoices P r vs).outOf v = F32.zero ∧ (runVoices P r vs).wordAfter v = (runVoices P r vs).wordBefore r v
      ∧ (runVoices P r vs).voices.agreeOn vs v := by
  cases v with
  | kick => exact idle_run kickTemplate P _ h
  | snare => exact idle_run snareTemplate P _ h
  | cymbal => exact idle_run cymbalTemplate P _ h
  | hihat => exact idle_run hihatTemplate P _ h
  | tom => exact idle_run tomTemplate P _ h
  | conga => exact idle_run congaTemplate P _ h
  | rimshot => exact idle_run rimshotTemplate P _ h
  | maracas => exact idle_run maracasTemplate P _ h
  | clap => exact idle_run clapTemplate P _ h
  | cowbell => exact idle_run cowbellTemplate P _ h

/-- With every voice Idle every run is empty. -/
theorem runVoices_silent (P : Params) (r : Word) {vs : Voices} (h : ∀ v, vs.playing v = false) :
    runVoices P r vs = ⟨⟨F32.zero, r, vs.kick⟩, ⟨F32.zero, r, vs.snare⟩, ⟨F32.zero, r, vs.cymbal⟩,
      ⟨F32.zero, r, vs.hihat⟩, ⟨F32.zero, r, vs.tom⟩, ⟨F32.zero, r, vs.conga⟩, ⟨F32.zero, r, vs.rimshot⟩,
      ⟨F32.zero, r, vs.maracas⟩, ⟨F32.zero, r, vs.clap⟩, ⟨F32.zero, r, vs.cowbell⟩⟩ := by
  simp only [runVoices, voiceProcess_idle kickTemplate P r (h .kick), voiceProcess_idle snareTemplate P r (h .snare),
    voiceProcess_idle cymbalTemplate P r (h .cymbal), voiceProcess_idle hihatTemplate P r (h .hihat),
    voiceProcess_idle tomTemplate P r (h .tom), voiceProcess_idle congaTemplate P r (h .conga),
    voiceProcess_idle rimshotTemplate P r (h .rimshot), voiceProcess_idle maracasTemplate P r (h .maracas),
    voiceProcess_idle clapTemplate P r (h .clap), voiceProcess_idle cowbellTemplate P r (h .cowbell)]

/-! ### The draws of a tick (rules R321, R389) -/

/-- A voice whose graph hands the noise word on makes no draw. -/
theorem tone_rng {V : Type} (T : Template V) (P : Params) (graph : ∀ r v, (T.graph P r v).rng = r) (r : Word) (v : V) :
    (voiceProcess T P r v).rng = r :=
  voiceProcess_rng T P (· = r) (fun _ _ h => (graph _ _).trans h) r v rfl

/-- A voice whose graph takes one draw makes one exactly while it sounds. -/
theorem noise_rng {V : Type} (T : Template V) (P : Params) (graph : ∀ r v, (T.graph P r v).rng = rngNext r) (r : Word)
    (v : V) : (voiceProcess T P r v).rng = rngNext^[drawsOf (T.isPlaying v)] r := by
  rcases h : T.isPlaying v with _ | _
  · rw [voiceProcess_idle T P r h]; rfl
  · rw [voiceProcess_sounding T P r h]; exact graph r v

/-- The noise word advances by the tick's draws. -/
theorem runVoices_rng (P : Params) (r : Word) (vs : Voices) : (runVoices P r vs).rng = rngNext^[vs.draws] r := by
  have one : (runVoices P r vs).rng = rngNext^[drawsOf vs.clap.isPlaying] (rngNext^[drawsOf vs.maracas.isPlaying]
      (rngNext^[drawsOf vs.conga.isPlaying] (rngNext^[drawsOf vs.tom.isPlaying]
        (rngNext^[drawsOf vs.snare.isPlaying] r)))) := by
    simp only [Tick.rng, runVoices, tone_rng kickTemplate P fun _ _ => rfl, tone_rng cymbalTemplate P fun _ _ => rfl,
      tone_rng hihatTemplate P fun _ _ => rfl, tone_rng rimshotTemplate P fun _ _ => rfl,
      tone_rng cowbellTemplate P fun _ _ => rfl, noise_rng snareTemplate P fun _ _ => rfl,
      noise_rng tomTemplate P fun _ _ => rfl, noise_rng congaTemplate P fun _ _ => rfl,
      noise_rng maracasTemplate P fun _ _ => rfl, noise_rng clapTemplate P fun _ _ => rfl]
    rfl
  rw [one, Voices.draws]
  simp only [← Function.iterate_add_apply]
  congr 1
  omega

/-! ### Ticks without a draw -/

/-- A voice whose run hands the noise word on and is otherwise the same whatever that word is. -/
def Quiet {V : Type} (T : Template V) (P : Params) (v : V) : Prop :=
  ∃ out voice, ∀ r, voiceProcess T P r v = ⟨out, r, voice⟩

theorem quiet_of_idle {V : Type} {T : Template V} {P : Params} {v : V} (h : drawsOf (T.isPlaying v) = 0) :
    Quiet T P v := by
  have idle : T.isPlaying v = false := by simpa [drawsOf] using h
  exact ⟨F32.zero, v, fun r => voiceProcess_idle T P r idle⟩

/-- A voice whose graph makes no use of the noise word is quiet, Sounding or Idle. -/
theorem quiet_of_graph {V : Type} {T : Template V} {P : Params} {v : V} {out : F32} {voice : V}
    (graph : ∀ r, T.graph P r v = ⟨out, r, voice⟩) : Quiet T P v := by
  rcases h : T.isPlaying v with _ | _
  · exact ⟨F32.zero, v, fun r => voiceProcess_idle T P r h⟩
  · refine ⟨(T.proc v).run P (P.mul (T.vel v) out), voiceSettle T P voice, fun r => ?_⟩
    rw [voiceProcess_sounding T P r h, graph r]

/-- With no noise voice Sounding a tick's sum and voices do not depend on the noise word, which it hands on. -/
theorem runVoices_of_no_draws (P : Params) {vs : Voices} (h : vs.draws = 0) :
    ∃ sum voices, ∀ r, (runVoices P r vs).sum P = sum ∧ (runVoices P r vs).voices = voices
      ∧ (runVoices P r vs).rng = r := by
  simp only [Voices.draws, Nat.add_eq_zero_iff] at h
  obtain ⟨⟨⟨⟨snare, tom⟩, conga⟩, maracas⟩, clap⟩ := h
  obtain ⟨_, _, kick⟩ : Quiet kickTemplate P vs.kick := quiet_of_graph fun _ => rfl
  obtain ⟨_, _, snare⟩ : Quiet snareTemplate P vs.snare := quiet_of_idle snare
  obtain ⟨_, _, cymbal⟩ : Quiet cymbalTemplate P vs.cymbal := quiet_of_graph fun _ => rfl
  obtain ⟨_, _, hihat⟩ : Quiet hihatTemplate P vs.hihat := quiet_of_graph fun _ => rfl
  obtain ⟨_, _, tom⟩ : Quiet tomTemplate P vs.tom := quiet_of_idle tom
  obtain ⟨_, _, conga⟩ : Quiet congaTemplate P vs.conga := quiet_of_idle conga
  obtain ⟨_, _, rimshot⟩ : Quiet rimshotTemplate P vs.rimshot := quiet_of_graph fun _ => rfl
  obtain ⟨_, _, maracas⟩ : Quiet maracasTemplate P vs.maracas := quiet_of_idle maracas
  obtain ⟨_, _, clap⟩ : Quiet clapTemplate P vs.clap := quiet_of_idle clap
  obtain ⟨_, _, cowbell⟩ : Quiet cowbellTemplate P vs.cowbell := quiet_of_graph fun _ => rfl
  simp only [runVoices, Tick.sum, Tick.voices, Tick.rng, kick, snare, cymbal, hihat, tom, conga, rimshot, maracas, clap,
    cowbell]
  exact ⟨_, _, fun _ => ⟨rfl, rfl, trivial⟩⟩

/-! ### Silence (rule R319) -/

/-- `+0.0` times a finite value of positive sign is `+0.0`. -/
theorem F32.zero_mul {x : F32} (finite : x.isFinite = true) (positive : x.sign = false) : F32.mul zero x = zero := by
  have nan : x.isNaN = false := isNaN_of_isFinite finite
  have inf : x.isInf = false := isInf_of_isFinite finite
  have mag : zero.mag = 0 := by decide
  have classes : zero.isNaN = false ∧ zero.isInf = false ∧ zero.sign = false := by decide
  simp only [F32.mul, nan, inf, mag, classes, positive, Bool.or_self, Bool.false_and, Nat.zero_mul, round, roundMag_zero,
    bne_self_eq_false, Bool.false_eq_true, if_false]
  decide

theorem sum_of_zeros :
    [F32.zero, F32.zero, F32.zero, F32.zero, F32.zero, F32.zero, F32.zero, F32.zero, F32.zero].foldl F32.add F32.zero
      = F32.zero := by decide

theorem clip_zero : reference.clip F32.zero = F32.zero := by decide

end Sys2Proof

namespace Sys2Proof.Machine

theorem sampleWord_zero : sampleWord reference F32.zero = 0 := by decide +kernel

/-- Settles O25: SAMPLE takes its voice records and noise words from the ten runs. -/
theorem idleVoiceIsUntouched : Obligations.IdleVoiceIsUntouched := by
  intro P s v idle
  obtain ⟨out, word, -⟩ := runVoices_idle P s.mixer.rng s.voices idle
  have kept (Q : Params) : (s.tick Q).voices.agreeOn s.voices v := (runVoices_idle Q s.mixer.rng s.voices idle).2.2
  refine ⟨⟨_, exec_sample s, kept reference⟩, ⟨_, execIn_sample P s, kept P⟩, ?_⟩
  refine ⟨?_, ?_, ?_, ?_, ?_, ?_, ?_, ?_, ?_, ?_⟩
  all_goals
    rintro rfl
    exact ⟨out, word⟩

/-- Settles O26: ten outputs of `+0.0` sum to `+0.0`, which the volume, the clip and the quantiser keep. -/
theorem sampleOfSilence : Obligations.SampleOfSilence := by
  intro s idle finite positive
  have runs : s.runs reference = _ := runVoices_silent reference s.mixer.rng idle
  have sum : (s.runs reference).sum reference = F32.zero := by
    rw [runs]
    simp only [Tick.sum, reference_add]
    exact sum_of_zeros
  have mix : (s.runs reference).mix reference s.mixer.master = F32.zero := by
    rw [Tick.mix, sum, reference_mul, F32.zero_mul finite positive, clip_zero]
  rw [exec_sample, mix, sampleWord_zero]
  simp only [State.tick, mix]
  rw [runs]
  rfl

/-- Settles O33. -/
theorem noiseDrawsPerTick : Obligations.NoiseDrawsPerTick := fun s =>
  ⟨⟨_, exec_sample s, runVoices_rng reference s.mixer.rng s.voices⟩,
    fun P => ⟨_, execIn_sample P s, runVoices_rng P s.mixer.rng s.voices⟩⟩

/-- Without a draw SAMPLE keeps the noise word, and does the same with another one in its place. -/
theorem execIn_sample_of_no_draws (P : Params) {s : State} (w : Word) (h : s.voices.draws = 0) :
    ∃ t : State, execIn P .sample s = .next t ∧ t.mixer.rng = s.mixer.rng
      ∧ execIn P .sample { s with mixer := { s.mixer with rng := w } }
        = .next { t with mixer := { t.mixer with rng := w } } := by
  obtain ⟨sum, voices, same⟩ := runVoices_of_no_draws P h
  obtain ⟨sum_s, voices_s, rng_s⟩ := same s.mixer.rng
  obtain ⟨sum_w, voices_w, rng_w⟩ := same w
  refine ⟨_, execIn_sample P s, rng_s, ?_⟩
  simp only [execIn_sample, State.tick, State.runs, State.respond, Tick.mix, sum_s, voices_s, sum_w, voices_w, rng_w]

/-- Settles O35. -/
theorem toneVoicesIgnoreTheNoiseWord : Obligations.ToneVoicesIgnoreTheNoiseWord := by
  intro s w h
  simp only [exec_eq]
  exact ⟨execIn_sample_of_no_draws reference w h, fun P => execIn_sample_of_no_draws P w h⟩

end Sys2Proof.Machine

/-!
TRIG (rule R312): what it leaves in its voice's record and in the others', at any parameters, and the steps of its own
that the Tom, the Conga and the Clap take (rules R261, R271, R289).
-/

namespace Sys2Proof

/-- The parameters with `FRT` the same for every voice. -/
def Params.withFrt (P : Params) (b : Bool) : Params := { P with frt := fun _ => b }

end Sys2Proof

namespace Sys2Proof.Machine

section AnyParameters

variable (P : Params) (v : Voice) (val : F32) (vs : Voices)

/-- TRIG leaves the records of the other voices. -/
theorem triggerVoice_agreeOn {w : Voice} (h : w ≠ v) : (triggerVoice P v val vs).agreeOn vs w := by
  cases v <;> cases w <;> first | rfl | exact absurd rfl h

/-- TRIG reads `FRT` of its own voice only.  With the one flag `b` in the place of `P.frt v`, every field that TRIG
leaves is found by evaluating it at both values of `b`. -/
theorem triggerVoice_own_frt : triggerVoice P v val vs = triggerVoice (P.withFrt (P.frt v)) v val vs := by
  cases v <;> rfl

theorem triggerVoice_playing : (triggerVoice P v val vs).playing v = true := by
  rw [triggerVoice_own_frt]
  cases P.frt v <;> cases v <;> rfl

theorem triggerVoice_velocity : (triggerVoice P v val vs).velocity v = P.clamp val F32.zero F32.one := by
  rw [triggerVoice_own_frt]
  cases P.frt v <;> cases v <;> rfl

theorem triggerVoice_envs : (triggerVoice P v val vs).envs v = (vs.envs v).map Env.trigger := by
  rw [triggerVoice_own_frt]
  cases P.frt v <;> cases v <;> rfl

theorem triggerVoice_oscs : (triggerVoice P v val vs).oscs v = (vs.oscs v).map (Osc.restart (P.frt v)) := by
  rw [triggerVoice_own_frt]
  cases P.frt v <;> cases v <;> rfl

theorem triggerVoice_flts :
    (triggerVoice P v val vs).flts v = if P.frt v then (vs.flts v).map Flt.clear else vs.flts v := by
  rw [triggerVoice_own_frt]
  cases P.frt v <;> cases v <;> rfl

/-- The Tom and the Conga retune their bridged-T after its trigger; the other bridged-Ts are just triggered. -/
theorem triggerVoice_bts (tom : v ≠ .tom) (conga : v ≠ .conga) :
    (triggerVoice P v val vs).bts v = (vs.bts v).map Bt.trigger := by
  rw [triggerVoice_own_frt]
  cases v with
  | tom => exact absurd rfl tom
  | conga => exact absurd rfl conga
  | kick | snare | cymbal | hihat | rimshot | maracas | clap | cowbell => cases P.frt _ <;> rfl

theorem triggerVoice_registers : (triggerVoice P v val vs).registers = vs.registers := by
  rw [triggerVoice_own_frt]
  cases P.frt v <;> cases v <;> rfl

theorem triggerVoice_configured : (triggerVoice P v val vs).configured = vs.configured := by
  rw [triggerVoice_own_frt]
  cases P.frt v <;> cases v <;> rfl

theorem triggerVoice_tom_bt :
    (triggerVoice P .tom val vs).tom.bt = vs.tom.bt.trigger.setFreq P vs.tom.tuning := by
  rw [triggerVoice_own_frt]
  cases P.frt .tom <;> rfl

theorem triggerVoice_conga_bt :
    (triggerVoice P .conga val vs).conga.bt = vs.conga.bt.trigger.setFreq P vs.conga.tuning := by
  rw [triggerVoice_own_frt]
  cases P.frt .conga <;> rfl

theorem triggerVoice_clap_bursts : (triggerVoice P .clap val vs).clap.burstsLeft = P.cfg.clapBursts - 1
    ∧ (triggerVoice P .clap val vs).clap.burstAge = 0 := by
  rw [triggerVoice_own_frt]
  cases P.frt .clap <;> exact ⟨rfl, rfl⟩

end AnyParameters

/-- Settles O16. -/
theorem trigRestartsTheVoice : Obligations.TrigRestartsTheVoice := by
  intro v val s finite
  refine ⟨_, exec_trig v finite s, rfl, rfl, rfl, fun w other => triggerVoice_agreeOn reference v val s.voices other, ?_⟩
  simp only [State.respond_voices, State.trigger_voices]
  exact ⟨triggerVoice_playing reference v val s.voices, triggerVoice_velocity reference v val s.voices,
    triggerVoice_envs reference v val s.voices, triggerVoice_oscs reference v val s.voices,
    triggerVoice_flts reference v val s.voices, triggerVoice_bts reference v val s.voices,
    triggerVoice_registers reference v val s.voices, triggerVoice_configured reference v val s.voices⟩

/-- Settles O17. -/
theorem trigOwnSteps : Obligations.TrigOwnSteps := fun val s finite =>
  ⟨⟨_, exec_trig .tom finite s, triggerVoice_tom_bt reference val s.voices⟩,
    ⟨_, exec_trig .conga finite s, triggerVoice_conga_bt reference val s.voices⟩,
    ⟨_, exec_trig .clap finite s, triggerVoice_clap_bursts reference val s.voices⟩⟩

/-- Settles O18. -/
theorem filterMemoryFollowsFrt : Obligations.FilterMemoryFollowsFrt := by
  intro P v val s finite
  refine ⟨_, execIn_trig P s v finite, rfl, fun frt => ?_, fun frt => ?_⟩
  all_goals
    simp only [State.respond_voices, State.trigger_voices, triggerVoice_flts, triggerVoice_oscs, frt]
    exact ⟨rfl, rfl⟩

end Sys2Proof.Machine

/-!
What a tick leaves of the voices (rules R210, R313): `Voices.still` is a state of the voices with everything erased that
a tick or a TRIG writes, and a tick keeps it.  The registers and the configuration are read off it.
-/

namespace Sys2Proof

/-! ### The records without what a tick or a TRIG writes -/

def Osc.still (o : Osc) : Osc := o.restart true

def Env.still (e : Env) : Env := { e with age := 0, isActive := false }

def Bt.still (b : Bt) : Bt := { b with phase := F32.zero, amp := F32.zero, active := false }

/-- A bridged-T that its voice's graph retunes: its frequency is erased too (rules R214, R262). -/
def Bt.unpitched (b : Bt) : Bt := { b.still with freq := F32.zero }

def Kick.still (k : Kick) : Kick :=
  { k with
    isPlaying := false, vel := F32.zero, bt := k.bt.unpitched, sub := k.sub.still, ampEnv := k.ampEnv.still
    pitchEnv := k.pitchEnv.still, lp := k.lp.clear }

def Snare.still (n : Snare) : Snare :=
  { n with
    isPlaying := false, vel := F32.zero, bt1 := n.bt1.still, bt2 := n.bt2.still, toneEnv := n.toneEnv.still
    noise := n.noise.still, hp := n.hp.clear, snapEnv := n.snapEnv.still }

def Cymbal.still (c : Cymbal) : Cymbal :=
  { c with
    isPlaying := false, vel := F32.zero, osc := c.osc.map Osc.still, bp1 := c.bp1.clear, bp2 := c.bp2.clear
    hp := c.hp.clear, env := c.env.still }

def Hihat.still (c : Hihat) : Hihat :=
  { c with
    isPlaying := false, vel := F32.zero, osc := c.osc.map Osc.still, bp := c.bp.clear, hp := c.hp.clear
    env := c.env.still }

def Drum.still (g : Drum) : Drum :=
  { g with
    isPlaying := false, vel := F32.zero, bt := g.bt.still, toneEnv := g.toneEnv.still, pinkOsc := g.pinkOsc.still
    lp := g.lp.clear, noiseEnv := g.noiseEnv.still }

/-- The Tom's record: its bridged-T is retuned at every tick. -/
def Drum.unpitched (g : Drum) : Drum := { g.still with bt := g.bt.unpitched }

def Rimshot.still (m : Rimshot) : Rimshot :=
  { m with
    isPlaying := false, vel := F32.zero, inh := m.inh.map Osc.still, hp := m.hp.clear, env := m.env.still }

def Maracas.still (m : Maracas) : Maracas :=
  { m with isPlaying := false, vel := F32.zero, noise := m.noise.still, hp := m.hp.clear, env := m.env.still }

def Clap.still (p : Clap) : Clap :=
  { p with
    isPlaying := false, vel := F32.zero, noise := p.noise.still, bp := p.bp.clear, sawEnv := p.sawEnv.still
    revEnv := p.revEnv.still, burstsLeft := 0, burstAge := 0 }

def Cowbell.still (b : Cowbell) : Cowbell :=
  { b with
    isPlaying := false, vel := F32.zero, o1 := b.o1.still, o2 := b.o2.still, bp := b.bp.clear, hp := b.hp.clear
    env := b.env.still }

def Voices.still (vs : Voices) : Voices :=
  { kick := vs.kick.still, snare := vs.snare.still, cymbal := vs.cymbal.still, hihat := vs.hihat.still
    tom := vs.tom.unpitched, conga := vs.conga.still, rimshot := vs.rimshot.still, maracas := vs.maracas.still
    clap := vs.clap.still, cowbell := vs.cowbell.still }

/-! ### What is read off the still record -/

theorem registers_still (vs : Voices) : vs.still.registers = vs.registers := rfl

theorem configured_still (vs : Voices) : vs.still.configured = vs.configured := rfl

/-! ### A tick keeps the still record -/

section Tick

variable (P : Params)

@[simp] theorem Bt.still_next (b : Bt) : (b.next P).still = b.still := by unfold Bt.next; split <;> rfl

@[simp] theorem Bt.unpitched_next (b : Bt) : (b.next P).unpitched = b.unpitched := by unfold Bt.next; split <;> rfl

theorem Clap.burst_vel (p : Clap) : (p.burst P).vel = p.vel := by unfold Clap.burst; split <;> rfl

theorem Clap.still_burst (p : Clap) : (p.burst P).still = p.still := by unfold Clap.burst; split <;> rfl

variable (r : Word)

/-- A property of a voice record that an Idle voice has and that a Sounding tick brings about holds after a tick. -/
theorem voiceProcess_by_cases {V : Type} (T : Template V) (Q : V → Prop) {v : V} (idle : T.isPlaying v = false → Q v)
    (sounding : T.isPlaying v = true → Q (voiceProcess T P r v).voice) : Q (voiceProcess T P r v).voice := by
  rcases h : T.isPlaying v with _ | _
  · rw [voiceProcess_idle T P r h]; exact idle h
  · exact sounding h

theorem kick_still (k : Kick) : (voiceProcess kickTemplate P r k).voice.still = k.still := by
  refine voiceProcess_by_cases P r kickTemplate (·.still = k.still) (fun _ => rfl) fun h => ?_
  rw [kick_process P r h]
  simp only [Kick.still, Bt.unpitched_next]
  rfl

theorem snare_still (n : Snare) : (voiceProcess snareTemplate P r n).voice.still = n.still := by
  refine voiceProcess_by_cases P r snareTemplate (·.still = n.still) (fun _ => rfl) fun h => ?_
  rw [snare_process P r h]
  simp only [Snare.still, Bt.still_next]
  rfl

theorem cymbal_still (c : Cymbal) : (voiceProcess cymbalTemplate P r c).voice.still = c.still := by
  refine voiceProcess_by_cases P r cymbalTemplate (·.still = c.still) (fun _ => rfl) fun h => ?_
  rw [cymbal_process P r h]
  rfl

theorem hihat_still (c : Hihat) : (voiceProcess hihatTemplate P r c).voice.still = c.still := by
  refine voiceProcess_by_cases P r hihatTemplate (·.still = c.still) (fun _ => rfl) fun h => ?_
  rw [hihat_process P r h]
  rfl

theorem Drum.still_after (g : Drum) : (g.after P r).still = g.still := by
  simp only [Drum.still, Drum.after, Bt.still_next]
  rfl

theorem Drum.unpitched_after (g : Drum) : (g.after P r).unpitched = g.unpitched := by
  rw [Drum.unpitched, Drum.unpitched, Drum.still_after]
  simp only [Drum.after, Bt.unpitched_next]

theorem tom_unpitched (g : Drum) : (voiceProcess tomTemplate P r g).voice.unpitched = g.unpitched := by
  refine voiceProcess_by_cases P r tomTemplate (·.unpitched = g.unpitched) (fun _ => rfl) fun h => ?_
  rw [tom_process P r h]
  exact g.unpitched_after P r

theorem conga_still (g : Drum) : (voiceProcess congaTemplate P r g).voice.still = g.still := by
  refine voiceProcess_by_cases P r congaTemplate (·.still = g.still) (fun _ => rfl) fun h => ?_
  rw [conga_process P r h]
  exact g.still_after P r

theorem rimshot_still (m : Rimshot) : (voiceProcess rimshotTemplate P r m).voice.still = m.still := by
  refine voiceProcess_by_cases P r rimshotTemplate (·.still = m.still) (fun _ => rfl) fun h => ?_
  rw [rimshot_process P r h]
  rfl

theorem maracas_still (m : Maracas) : (voiceProcess maracasTemplate P r m).voice.still = m.still := by
  refine voiceProcess_by_cases P r maracasTemplate (·.still = m.still) (fun _ => rfl) fun h => ?_
  rw [maracas_process P r h]
  rfl

theorem clap_still (p : Clap) : (voiceProcess clapTemplate P r p).voice.still = p.still := by
  refine voiceProcess_by_cases P r clapTemplate (·.still = p.still) (fun _ => rfl) fun h => ?_
  rw [clap_process P r h, ← p.still_burst P]
  rfl

theorem cowbell_still (b : Cowbell) : (voiceProcess cowbellTemplate P r b).voice.still = b.still := by
  refine voiceProcess_by_cases P r cowbellTemplate (·.still = b.still) (fun _ => rfl) fun h => ?_
  rw [cowbell_process P r h]
  rfl

theorem runVoices_still (vs : Voices) : (runVoices P r vs).voices.still = vs.still := by
  simp only [Voices.still, Tick.voices, runVoices, kick_still, snare_still, cymbal_still, hihat_still, tom_unpitched,
    conga_still, rimshot_still, maracas_still, clap_still, cowbell_still]

theorem runVoices_registers (vs : Voices) : (runVoices P r vs).voices.registers = vs.registers := by
  rw [← registers_still, runVoices_still, registers_still]

theorem runVoices_configured (vs : Voices) : (runVoices P r vs).voices.configured = vs.configured := by
  rw [← configured_still, runVoices_still, configured_still]

/-- A tick leaves the velocities: no graph, no ageing and no completion writes one. -/
theorem runVoices_velocity (vs : Voices) (v : Voice) : (runVoices P r vs).voices.velocity v = vs.velocity v := by
  cases v with
  | kick => exact voiceProcess_keeps kickTemplate P Kick.vel (fun _ _ => rfl) (fun _ => rfl) (fun _ => rfl) _ _
  | snare => exact voiceProcess_keeps snareTemplate P Snare.vel (fun _ _ => rfl) (fun _ => rfl) (fun _ => rfl) _ _
  | cymbal => exact voiceProcess_keeps cymbalTemplate P Cymbal.vel (fun _ _ => rfl) (fun _ => rfl) (fun _ => rfl) _ _
  | hihat => exact voiceProcess_keeps hihatTemplate P Hihat.vel (fun _ _ => rfl) (fun _ => rfl) (fun _ => rfl) _ _
  | tom => exact voiceProcess_keeps tomTemplate P Drum.vel (fun _ _ => rfl) (fun _ => rfl) (fun _ => rfl) _ _
  | conga => exact voiceProcess_keeps congaTemplate P Drum.vel (fun _ _ => rfl) (fun _ => rfl) (fun _ => rfl) _ _
  | rimshot => exact voiceProcess_keeps rimshotTemplate P Rimshot.vel (fun _ _ => rfl) (fun _ => rfl) (fun _ => rfl) _ _
  | maracas => exact voiceProcess_keeps maracasTemplate P Maracas.vel (fun _ _ => rfl) (fun _ => rfl) (fun _ => rfl) _ _
  | clap =>
    exact voiceProcess_keeps clapTemplate P Clap.vel (fun _ p => p.burst_vel P) (fun _ => rfl) (fun _ => rfl) _ _
  | cowbell => exact voiceProcess_keeps cowbellTemplate P Cowbell.vel (fun _ _ => rfl) (fun _ => rfl) (fun _ => rfl) _ _

end Tick

/-- Voices that agree on a voice agree on whether it sounds. -/
theorem Voices.playing_of_agreeOn {a b : Voices} {v : Voice} (h : a.agreeOn b v) : a.playing v = b.playing v := by
  cases v with
  | kick => exact congrArg Kick.isPlaying h
  | snare => exact congrArg Snare.isPlaying h
  | cymbal => exact congrArg Cymbal.isPlaying h
  | hihat => exact congrArg Hihat.isPlaying h
  | tom | conga => exact congrArg Drum.isPlaying h
  | rimshot => exact congrArg Rimshot.isPlaying h
  | maracas => exact congrArg Maracas.isPlaying h
  | clap => exact congrArg Clap.isPlaying h
  | cowbell => exact congrArg Cowbell.isPlaying h

/-- Voices that agree on a voice agree on its velocity. -/
theorem Voices.velocity_of_agreeOn {a b : Voices} {v : Voice} (h : a.agreeOn b v) : a.velocity v = b.velocity v := by
  cases v with
  | kick => exact congrArg Kick.vel h
  | snare => exact congrArg Snare.vel h
  | cymbal => exact congrArg Cymbal.vel h
  | hihat => exact congrArg Hihat.vel h
  | tom | conga => exact congrArg Drum.vel h
  | rimshot => exact congrArg Rimshot.vel h
  | maracas => exact congrArg Maracas.vel h
  | clap => exact congrArg Clap.vel h
  | cowbell => exact congrArg Cowbell.vel h

end Sys2Proof

namespace Sys2Proof.Machine

/-! ### What SETP leaves (rule R318) -/

theorem writeReg_playing (P : Params) (r : Reg) (val : F32) (vs : Voices) (v : Voice) :
    (writeReg P r val vs).playing v = vs.playing v := by
  cases r <;> cases v <;> rfl

theorem writeReg_velocity (P : Params) (r : Reg) (val : F32) (vs : Voices) (v : Voice) :
    (writeReg P r val vs).velocity v = vs.velocity v := by
  cases r <;> cases v <;> rfl

theorem writeReg_configured (P : Params) (r : Reg) (val : F32) (vs : Voices) :
    (writeReg P r val vs).configured = vs.configured := by
  cases r <;> rfl

/-! ### What no command writes, and which command writes what (rules R53, R54, R313) -/

/-- A command of the reference block is one at some value of the parameters. -/
theorem exists_execIn {P : Params} {i : Instr} {s t : State} (h : exec i s = .next t ∨ execIn P i s = .next t) :
    ∃ Q, execIn Q i s = .next t := by
  obtain h | h := h
  · exact ⟨reference, (exec_eq i s).symm.trans h⟩
  · exact ⟨P, h⟩

/-- Settles O59: TRIG, SETP and SAMPLE are the commands that write voice records. -/
theorem noCommandWritesTheConfiguration : Obligations.NoCommandWritesTheConfiguration := by
  intro P i s t h
  obtain ⟨Q, h⟩ := exists_execIn h
  obtain rfl | ⟨-, rfl⟩ | ⟨v, val, -, -, rfl⟩ | ⟨v, p, val, r, -, -, -, rfl⟩ | ⟨val, -, -, rfl⟩ | ⟨-, rfl⟩
    | ⟨-, rfl⟩ | ⟨-, rfl⟩ := execIn_cases h
  case inr.inr.inl => exact triggerVoice_configured Q v val s.voices
  case inr.inr.inr.inl => exact writeReg_configured Q r val s.voices
  case inr.inr.inr.inr.inr.inr.inr => exact runVoices_configured Q s.mixer.rng s.voices
  all_goals rfl

section Writers

variable {Q : Params} {i : Instr} {s t : State}

/-- A voice's flag: TRIG raises its own voice's, SAMPLE raises none, every other command leaves all. -/
theorem execIn_playing (h : execIn Q i s = .next t) (v : Voice) :
    t.voices.playing v = s.voices.playing v ∨ (∃ val, i = .trig v val ∧ t.voices.playing v = true)
      ∨ (i = .sample ∧ (s.voices.playing v = false → t.voices.playing v = false)) := by
  obtain rfl | ⟨-, rfl⟩ | ⟨w, val, rfl, -, rfl⟩ | ⟨w, p, val, r, -, -, -, rfl⟩ | ⟨val, -, -, rfl⟩ | ⟨-, rfl⟩
    | ⟨-, rfl⟩ | ⟨rfl, rfl⟩ := execIn_cases h
  case inr.inr.inl =>
    by_cases own : v = w
    · subst own
      exact .inr (.inl ⟨val, rfl, triggerVoice_playing Q v val s.voices⟩)
    · exact .inl (Voices.playing_of_agreeOn (triggerVoice_agreeOn Q w val s.voices own))
  case inr.inr.inr.inl => exact .inl (writeReg_playing Q r val s.voices v)
  case inr.inr.inr.inr.inr.inr.inr =>
    refine .inr (.inr ⟨rfl, fun idle => ?_⟩)
    obtain ⟨-, -, kept⟩ := runVoices_idle Q s.mixer.rng s.voices idle
    exact (Voices.playing_of_agreeOn kept).trans idle
  all_goals exact .inl rfl

theorem execIn_registers (h : execIn Q i s = .next t) : t.voices.registers = s.voices.registers ∨ i.op = .setp := by
  obtain rfl | ⟨-, rfl⟩ | ⟨v, val, -, -, rfl⟩ | ⟨v, p, val, r, rfl, -, -, rfl⟩ | ⟨val, -, -, rfl⟩ | ⟨-, rfl⟩
    | ⟨-, rfl⟩ | ⟨-, rfl⟩ := execIn_cases h
  case inr.inr.inl => exact .inl (triggerVoice_registers Q v val s.voices)
  case inr.inr.inr.inl => exact .inr rfl
  case inr.inr.inr.inr.inr.inr.inr => exact .inl (runVoices_registers Q s.mixer.rng s.voices)
  all_goals exact .inl rfl

/-- The mixer's fields: SETMV writes the volume, SAMPLE the output and the noise word, STATUS and a rejection the flag. -/
theorem execIn_mixer (h : execIn Q i s = .next t) :
    (t.mixer.master = s.mixer.master ∨ i.op = .setmv)
      ∧ ((t.mixer.rng = s.mixer.rng ∧ t.mixer.mix = s.mixer.mix) ∨ i = .sample)
      ∧ (t.mixer.cmdErr = s.mixer.cmdErr ∨ (i = .status ∧ t.mixer.cmdErr = false)
        ∨ (i.wellFormed = false ∧ t.mixer.cmdErr = true)) := by
  rcases wf : i.wellFormed with _ | _
  · rw [execIn_of_not_wellFormed Q wf] at h
    cases h
    exact ⟨.inl rfl, .inl ⟨rfl, rfl⟩, .inr (.inr ⟨rfl, rfl⟩)⟩
  · obtain ⟨rfl, rfl⟩ | ⟨v, val, rfl, rfl⟩ | ⟨v, p, val, r, rfl, rfl⟩ | ⟨val, rfl, rfl⟩ | ⟨rfl, rfl⟩ | ⟨rfl, rfl⟩
      | ⟨rfl, rfl⟩ := execIn_cases_of_wellFormed wf h
    case inr.inr.inr.inl => exact ⟨.inr rfl, .inl ⟨rfl, rfl⟩, .inl rfl⟩
    case inr.inr.inr.inr.inl => exact ⟨.inl rfl, .inl ⟨rfl, rfl⟩, .inr (.inl ⟨rfl, rfl⟩)⟩
    case inr.inr.inr.inr.inr.inr => exact ⟨.inl rfl, .inr rfl, .inl rfl⟩
    all_goals exact ⟨.inl rfl, .inl ⟨rfl, rfl⟩, .inl rfl⟩

end Writers

/-- Settles O60. -/
theorem onlyTheirCommandsWriteThem : Obligations.OnlyTheirCommandsWriteThem := by
  intro P i s t h
  obtain ⟨Q, h⟩ := exists_execIn h
  obtain ⟨master, noise, flag⟩ := execIn_mixer h
  refine ⟨fun v idle sounds => ?_, fun v sounds idle => ?_, fun up down => ?_, fun down up => ?_,
    (execIn_registers h).resolve_left, master.resolve_left, fun changed => noise.resolve_left fun kept => ?_⟩
  · obtain same | ⟨val, own, -⟩ | ⟨-, silent⟩ := execIn_playing h v
    · simp [same, idle] at sounds
    · exact ⟨val, own⟩
    · simp [silent idle] at sounds
  · obtain same | ⟨val, -, on⟩ | ⟨own, -⟩ := execIn_playing h v
    · simp [same, sounds] at idle
    · simp [on] at idle
    · exact own
  · obtain same | ⟨own, -⟩ | ⟨-, set⟩ := flag
    · simp [same, up] at down
    · exact own
    · simp [set] at down
  · obtain same | ⟨-, cleared⟩ | ⟨ill, -⟩ := flag
    · simp [same, down] at up
    · simp [cleared] at up
    · exact ill
  · obtain rng | mix := changed
    · exact rng kept.1
    · exact mix kept.2

end Sys2Proof.Machine

/-!
Three invariants of every step: legal registers (rules R54, R312, R316), derived elements (rules R34, R57), and the noise
word (rules R52, R136); and the reset values they start from (rule R383).
-/

namespace Sys2Proof

/-! ### Legal registers -/

/-- The control registers are in their legal ranges (rule R54). -/
def Registers.legal (g : Registers) : Prop :=
  referenceCfg.kickDecay.holds g.kickDecay ∧ referenceCfg.kickTone.holds g.kickTone
    ∧ referenceCfg.snareTone.holds g.snareTone ∧ referenceCfg.snareSnappy.holds g.snareSnappy
    ∧ referenceCfg.cymbalDecay.holds g.cymbalDecay ∧ referenceCfg.cymbalTone.holds g.cymbalTone
    ∧ referenceCfg.tomTuning.holds g.tomTuning ∧ referenceCfg.congaTuning.holds g.congaTuning

/-- The legal registers and velocities of the voices, the registers as one record. -/
theorem Voices.registersLegal_iff (vs : Voices) :
    vs.registersLegal ↔ vs.registers.legal ∧ ∀ v ∈ Voice.all, F32.within F32.zero F32.one (vs.velocity v) := Iff.rfl

/-- The bounds of every register's range are in order (rule R22). -/
theorem ranges_ordered : ∀ r ∈ [referenceCfg.kickDecay, referenceCfg.kickTone, referenceCfg.snareTone,
    referenceCfg.snareSnappy, referenceCfg.cymbalDecay, referenceCfg.cymbalTone, referenceCfg.tomTuning,
    referenceCfg.congaTuning], F32.le r.lo r.hi = true := by decide +kernel

/-- A finite value clamped to a range of a register is in it. -/
theorem clampTo_holds {r : Range} (ordered : F32.le r.lo r.hi = true) {val : F32} (finite : val.isFinite = true) :
    r.holds (reference.clampTo r val) :=
  clamp_within val ordered (F32.isNaN_of_isFinite finite)

theorem clamp_unit_within {val : F32} (finite : val.isFinite = true) :
    F32.within F32.zero F32.one (reference.clamp val F32.zero F32.one) :=
  clamp_within val (by decide) (F32.isNaN_of_isFinite finite)

end Sys2Proof

namespace Sys2Proof.Machine

/-- SETP writes a legal value into its register and leaves the others. -/
theorem writeReg_registers_legal {vs : Voices} (h : vs.registers.legal) (r : Reg) {val : F32}
    (finite : val.isFinite = true) : (writeReg reference r val vs).registers.legal := by
  have ordered := ranges_ordered
  simp only [List.forall_mem_cons, List.not_mem_nil, false_implies, implies_true, and_true] at ordered
  obtain ⟨kickDecay, kickTone, snareTone, snareSnappy, cymbalDecay, cymbalTone, tomTuning, congaTuning⟩ := ordered
  obtain ⟨h1, h2, h3, h4, h5, h6, h7, h8⟩ := h
  cases r with
  | kickDecay => exact ⟨clampTo_holds kickDecay finite, h2, h3, h4, h5, h6, h7, h8⟩
  | kickTone => exact ⟨h1, clampTo_holds kickTone finite, h3, h4, h5, h6, h7, h8⟩
  | snareTone => exact ⟨h1, h2, clampTo_holds snareTone finite, h4, h5, h6, h7, h8⟩
  | snareSnappy => exact ⟨h1, h2, h3, clampTo_holds snareSnappy finite, h5, h6, h7, h8⟩
  | cymbalDecay => exact ⟨h1, h2, h3, h4, clampTo_holds cymbalDecay finite, h6, h7, h8⟩
  | cymbalTone => exact ⟨h1, h2, h3, h4, h5, clampTo_holds cymbalTone finite, h7, h8⟩
  | hihatOpen => exact ⟨h1, h2, h3, h4, h5, h6, h7, h8⟩
  | tomTuning => exact ⟨h1, h2, h3, h4, h5, h6, clampTo_holds tomTuning finite, h8⟩
  | congaTuning => exact ⟨h1, h2, h3, h4, h5, h6, h7, clampTo_holds congaTuning finite⟩

/-- TRIG latches a legal velocity and leaves the registers and the other velocities. -/
theorem triggerVoice_registersLegal {vs : Voices} (h : vs.registersLegal) (w : Voice) {val : F32}
    (finite : val.isFinite = true) : (triggerVoice reference w val vs).registersLegal := by
  rw [Voices.registersLegal_iff] at h ⊢
  obtain ⟨registers, velocities⟩ := h
  rw [triggerVoice_registers]
  refine ⟨registers, fun v hv => ?_⟩
  by_cases own : v = w
  · rw [own, triggerVoice_velocity]
    exact clamp_unit_within finite
  · rw [Voices.velocity_of_agreeOn (triggerVoice_agreeOn reference w val vs own)]
    exact velocities v hv

theorem reset_registersLegal : State.reset.registersLegal := by decide +kernel

/-- Settles O54: the values SETP, TRIG and SETMV write are clamped to the legal range, and a tick writes none of them. -/
theorem registersStayLegal : Obligations.RegistersStayLegal := by
  intro s t h next
  rw [step_eq] at next
  refine stepIn_invariant (fun m v => v.registersLegal ∧ F32.within F32.zero F32.one m.master) reset_registersLegal
    (fun _ _ _ inv => inv) ?trig ?setp ?setmv ?tick s t h next
  case trig => exact fun _ _ w _ finite ⟨voices, master⟩ => ⟨triggerVoice_registersLegal voices w finite, master⟩
  case setp =>
    intro _ v r val finite ⟨⟨registers, velocities⟩, master⟩
    refine ⟨⟨writeReg_registers_legal registers r finite, fun w hw => ?_⟩, master⟩
    rw [writeReg_velocity]
    exact velocities w hw
  case setmv => exact fun _ _ _ finite ⟨voices, _⟩ => ⟨voices, clamp_unit_within finite⟩
  case tick =>
    intro m v _ ⟨voices, master⟩
    refine ⟨?_, master⟩
    rw [Voices.registersLegal_iff] at voices ⊢
    simpa only [runVoices_registers, runVoices_velocity] using voices

/-! ### The noise word -/

end Sys2Proof.Machine

namespace Sys2Proof

/-- A word that is its own shift by one place or more is 0: bit by bit, the lowest first. -/
theorem eq_zero_of_eq_shift {w : Word} {k : Nat} (hk : 0 < k) (h : w = w <<< k) : w = 0 := by
  have bits (i : Nat) : w.getLsbD i = false := by
    induction i using Nat.strong_induction_on with
    | _ i ih =>
      rw [h, BitVec.getLsbD_shiftLeft]
      rcases Nat.lt_or_ge i k with below | above
      · simp [below]
      · rw [ih (i - k) (by omega)]
        simp
  exact BitVec.eq_of_getLsbD_eq fun i _ => by rw [bits i]; simp

/-- The same for a shift to the right: bit by bit, the highest first. -/
theorem eq_zero_of_eq_shift_right {w : Word} {k : Nat} (hk : 0 < k) (h : w = w >>> k) : w = 0 := by
  have bits (n i : Nat) (hi : 32 ≤ i + n) : w.getLsbD i = false := by
    induction n using Nat.strong_induction_on generalizing i with
    | _ n ih =>
      rcases Nat.eq_zero_or_pos n with rfl | hn
      · exact BitVec.getLsbD_of_ge w i hi
      · rw [h, BitVec.getLsbD_ushiftRight]
        exact ih (n - 1) (by omega) (k + i) (by omega)
  exact BitVec.eq_of_getLsbD_eq fun i _ => by rw [bits 32 i (by omega)]; simp

/-- RNG_NEXT takes only 0 to 0: each of its three steps does (rule R136). -/
theorem rngNext_ne_zero {w : Word} (h : w ≠ 0) : rngNext w ≠ 0 := by
  intro zero
  unfold rngNext at zero
  dsimp only at zero
  have third := eq_zero_of_eq_shift (by decide) (BitVec.xor_eq_zero_iff.mp zero)
  have second := eq_zero_of_eq_shift_right (by decide) (BitVec.xor_eq_zero_iff.mp third)
  exact h (eq_zero_of_eq_shift (by decide) (BitVec.xor_eq_zero_iff.mp second))

theorem iterate_rngNext_ne_zero {w : Word} (h : w ≠ 0) (n : Nat) : rngNext^[n] w ≠ 0 := by
  induction n with
  | zero => exact h
  | succ n ih => rw [Function.iterate_succ_apply']; exact rngNext_ne_zero ih

end Sys2Proof

namespace Sys2Proof.Machine

/-- Every step at parameters whose seed is not 0 keeps the noise word from becoming 0. -/
theorem stepIn_noiseAlive {P : Params} (seed : P.noiseSeed ≠ 0) {s t : State} (h : s.noiseAlive)
    (next : stepIn P s = .next t) : t.noiseAlive := by
  refine stepIn_invariant (fun m _ => m.rng ≠ 0) seed (fun _ _ _ inv => inv) (fun _ _ _ _ _ inv => inv)
    (fun _ _ _ _ _ inv => inv) (fun _ _ _ _ inv => inv) (fun m v _ inv => ?_) s t h next
  change (runVoices P m.rng v).rng ≠ 0
  rw [runVoices_rng]
  exact iterate_rngNext_ne_zero inv v.draws

/-- Settles O58. -/
theorem noiseWordStaysNonzero : Obligations.NoiseWordStaysNonzero := by
  refine ⟨fun s t h next => ?_, fun B => ⟨B.legal.2, fun s t => stepIn_noiseAlive B.legal.2⟩⟩
  rw [step_eq] at next
  exact stepIn_noiseAlive referenceInstance.legal.2 h next

end Sys2Proof.Machine

/-!
The invariant of derived elements (rules R34, R35, R38, R57): what a tick or a TRIG writes is not derived, and what SETP
and RESET derive comes from the setter that derives it.
-/

namespace Sys2Proof

section Derived

variable (P : Params)

/-! ### The setters derive -/

theorem Flt.derived_setCutoff (f : Flt) (fc : F32) : (f.setCutoff P fc).derived P := ⟨rfl, rfl⟩

/-- The delay registers are not derived: FLT_RESET changes nothing else. -/
theorem Flt.derived_clear (f : Flt) : f.clear.derived P ↔ f.derived P := by
  refine and_congr Iff.rfl ⟨fun h => ?_, fun h => congrArg Flt.clear h⟩
  have restored := congrArg (fun g => { g with x1 := f.x1, x2 := f.x2, y1 := f.y1, y2 := f.y2 : Flt }) h
  exact restored

theorem Osc.derived_still (o : Osc) : o.still.derived P ↔ o.derived P := Iff.rfl

theorem Bank.derived_still (b : Bank) : (b.map Osc.still).derived P ↔ b.derived P := Iff.rfl

theorem Bt.derived_still (b : Bt) : b.still.derived P ↔ b.derived P := Iff.rfl

theorem Bt.derived_unpitched (b : Bt) : b.unpitched.derived P ↔ b.derived P := Iff.rfl

/-- Nothing that a tick or a TRIG erases from the records is derived. -/
theorem derived_still (vs : Voices) : vs.still.derived P ↔ vs.derived P := by
  simp only [Voices.derived, Voices.still, Kick.still, Snare.still, Cymbal.still, Hihat.still, Drum.still,
    Drum.unpitched, Rimshot.still, Maracas.still, Clap.still, Cowbell.still, Inh.map, Osc.derived_still,
    Bank.derived_still, Bt.derived_still, Bt.derived_unpitched, Flt.derived_clear]
  rfl

/-- Voices with one still record have the same derived elements. -/
theorem derived_of_still_eq {a b : Voices} (same : a.still = b.still) (h : b.derived P) : a.derived P := by
  rw [← derived_still] at h ⊢
  rwa [same]

/-! ### The steps -/

/-- After RESET every derived element is what its setter computed (rule R380). -/
theorem derived_voicesReset : (voicesReset P).derived P := by
  have osc (f a : F32) : (Osc.reset P f a).derived P := rfl
  have bank (a : F32) : (bankReset P a).derived P := ⟨osc _ a, osc _ a, osc _ a, osc _ a, osc _ a, osc _ a⟩
  have bt (f ms : F32) : (Bt.reset P f ms).derived P := rfl
  have flt (q fc : F32) : (Flt.reset P q fc).derived P := Flt.derived_setCutoff P _ fc
  exact ⟨⟨bt _ _, osc _ _, flt _ _, rfl, rfl, rfl⟩, ⟨bt _ _, bt _ _, osc _ _, flt _ _, rfl⟩,
    ⟨bank _, flt _ _, flt _ _, flt _ _, rfl, rfl, rfl⟩, ⟨bank _, flt _ _, flt _ _, rfl⟩,
    ⟨bt _ _, osc _ _, flt _ _⟩, ⟨bt _ _, osc _ _, flt _ _, rfl⟩, ⟨osc _ _, osc _ _, flt _ _⟩, ⟨osc _ _, flt _ _⟩,
    ⟨osc _ _, flt _ _⟩, ⟨osc _ _, osc _ _, flt _ _, flt _ _⟩⟩

end Derived

end Sys2Proof

namespace Sys2Proof.Machine

section Derived

variable (P : Params)

/-- TRIG writes nothing that the still record keeps: the one derived field it sets, the Conga's frequency, it sets to
what its tuning gives already. -/
theorem triggerVoice_still {vs : Voices} (conga : vs.conga.bt.freq = P.clampFreq vs.conga.tuning) (v : Voice)
    (val : F32) : (triggerVoice P v val vs).still = vs.still := by
  rw [triggerVoice_own_frt]
  cases v with
  | conga =>
    have retuned : vs.conga.bt.still = (vs.conga.bt.setFreq P vs.conga.tuning).still := by
      simp only [Bt.still, Bt.setFreq, ← conga]
    have rest : vs.still = { vs.still with conga := { vs.conga.still with bt := vs.conga.bt.still } } := rfl
    rw [rest, retuned]
    cases P.frt _ <;> rfl
  | kick | snare | cymbal | hihat | tom | rimshot | maracas | clap | cowbell => cases P.frt _ <;> rfl

theorem triggerVoice_derived {vs : Voices} (h : vs.derived P) (v : Voice) (val : F32) :
    (triggerVoice P v val vs).derived P := by
  obtain ⟨-, -, -, -, -, ⟨-, -, -, conga⟩, -⟩ := id h
  exact derived_of_still_eq P (triggerVoice_still P conga v val) h

/-- SETP derives again what depends on the register it writes. -/
theorem writeReg_derived {vs : Voices} (h : vs.derived P) (r : Reg) (val : F32) : (writeReg P r val vs).derived P := by
  obtain ⟨kick, snare, cymbal, hihat, tom, conga, rest⟩ := h
  cases r with
  | kickDecay =>
    obtain ⟨_, sub, lp, _, _, cutoff⟩ := kick
    exact ⟨⟨rfl, sub, lp, rfl, rfl, cutoff⟩, snare, cymbal, hihat, tom, conga, rest⟩
  | kickTone =>
    obtain ⟨bt, sub, _, env, decay, _⟩ := kick
    exact ⟨⟨bt, sub, Flt.derived_setCutoff P _ _, env, decay, rfl⟩, snare, cymbal, hihat, tom, conga, rest⟩
  | snareTone => exact ⟨kick, snare, cymbal, hihat, tom, conga, rest⟩
  | snareSnappy =>
    obtain ⟨bt1, bt2, noise, hp, _⟩ := snare
    exact ⟨kick, ⟨bt1, bt2, noise, hp, rfl⟩, cymbal, hihat, tom, conga, rest⟩
  | cymbalDecay =>
    obtain ⟨osc, bp1, bp2, hp, _, centres⟩ := cymbal
    exact ⟨kick, snare, ⟨osc, bp1, bp2, hp, rfl, centres⟩, hihat, tom, conga, rest⟩
  | cymbalTone =>
    obtain ⟨osc, _, _, hp, decay, _⟩ := cymbal
    exact ⟨kick, snare, ⟨osc, Flt.derived_setCutoff P _ _, Flt.derived_setCutoff P _ _, hp, decay, rfl, rfl⟩, hihat, tom,
      conga, rest⟩
  | hihatOpen =>
    obtain ⟨osc, bp, hp, _⟩ := hihat
    exact ⟨kick, snare, cymbal, ⟨osc, bp, hp, rfl⟩, tom, conga, rest⟩
  | tomTuning => exact ⟨kick, snare, cymbal, hihat, tom, conga, rest⟩
  | congaTuning =>
    obtain ⟨bt, pink, lp, _⟩ := conga
    exact ⟨kick, snare, cymbal, hihat, tom, ⟨bt, pink, lp, rfl⟩, rest⟩

theorem stepIn_derived {s t : State} (h : s.voices.derived P) (next : stepIn P s = .next t) : t.voices.derived P :=
  stepIn_invariant (fun _ v => v.derived P) (derived_voicesReset P) (fun _ _ _ inv => inv)
    (fun _ _ w val _ inv => triggerVoice_derived P inv w val) (fun _ _ r val _ inv => writeReg_derived P inv r val)
    (fun _ _ _ _ inv => inv) (fun m v _ inv => derived_of_still_eq P (runVoices_still P m.rng v) inv) s t h next

end Derived

/-- Settles O55. -/
theorem derivedElementsStayDerived : Obligations.DerivedElementsStayDerived :=
  ⟨fun s _ h next => stepIn_derived reference h ((step_eq s).symm.trans next), fun P _ _ => stepIn_derived P⟩

end Sys2Proof.Machine

/-!
The invariant of the envelope flags (rules R53, R210, R211, R312): a Sounding tick lowers a voice's flag and those of its
envelopes together, TRIG raises them together, and the Clap waits for its bursts.
-/

namespace Sys2Proof

/-! ### The envelopes of a Sounding voice in a tick -/

section Tick

variable (P : Params) (r : Word)

/-- A Sounding voice other than the Clap completes with its controlling envelopes; its envelopes age and, if it
completes, are switched off with it. -/
theorem runVoices_sounding {vs : Voices} {v : Voice} (on : vs.playing v = true) (h : v ≠ .clap) :
    let d := (vs.controlling v).all (Env.doneNext P)
    (runVoices P r vs).voices.envs v = (vs.envs v).map (Env.aged d) ∧ (runVoices P r vs).voices.playing v = !d := by
  cases v <;> simp only [Voices.controlling, Voices.envs, Voices.playing, Tick.voices, runVoices, List.all_cons,
    List.all_nil, Bool.and_true]
  case kick => rw [kick_process P _ on]; exact ⟨rfl, rfl⟩
  case snare => rw [snare_process P _ on]; exact ⟨rfl, rfl⟩
  case cymbal => rw [cymbal_process P _ on]; exact ⟨rfl, rfl⟩
  case hihat => rw [hihat_process P _ on]; exact ⟨rfl, rfl⟩
  case tom => rw [tom_process P _ on]; exact ⟨rfl, rfl⟩
  case conga => rw [conga_process P _ on]; exact ⟨rfl, rfl⟩
  case rimshot => rw [rimshot_process P _ on]; exact ⟨rfl, rfl⟩
  case maracas => rw [maracas_process P _ on]; exact ⟨rfl, rfl⟩
  case cowbell => rw [cowbell_process P _ on]; exact ⟨rfl, rfl⟩
  case clap => exact absurd rfl h

/-- A Sounding Clap completes when both envelopes are done and no burst is left; a due burst comes first. -/
theorem runVoices_clap {vs : Voices} (on : vs.clap.isPlaying = true) :
    let c := vs.clap.burst P
    let d := c.sawEnv.doneNext P && c.revEnv.doneNext P && c.burstsLeft == 0
    let t := (runVoices P r vs).voices.clap
    t.sawEnv = c.sawEnv.aged d ∧ t.revEnv = c.revEnv.aged d ∧ t.burstsLeft = c.burstsLeft
      ∧ t.burstAge = satInc c.burstAge ∧ t.isPlaying = !d := by
  simp only [Tick.voices, runVoices]
  rw [clap_process P _ on]
  exact ⟨rfl, rfl, rfl, rfl, rfl⟩

end Tick

/-! ### The invariant, voice by voice -/

/-- Voices that agree on a voice agree on its envelopes. -/
theorem Voices.envs_of_agreeOn {a b : Voices} {v : Voice} (h : a.agreeOn b v) : a.envs v = b.envs v := by
  cases v with
  | kick => exact congrArg (fun k : Kick => [k.ampEnv, k.pitchEnv]) h
  | snare => exact congrArg (fun n : Snare => [n.toneEnv, n.snapEnv]) h
  | cymbal => exact congrArg (fun c : Cymbal => [c.env]) h
  | hihat => exact congrArg (fun c : Hihat => [c.env]) h
  | tom | conga => exact congrArg (fun g : Drum => [g.toneEnv, g.noiseEnv]) h
  | rimshot => exact congrArg (fun m : Rimshot => [m.env]) h
  | maracas => exact congrArg (fun m : Maracas => [m.env]) h
  | clap => exact congrArg (fun p : Clap => [p.sawEnv, p.revEnv]) h
  | cowbell => exact congrArg (fun b : Cowbell => [b.env]) h

/-- Every envelope of voice `v` is active exactly if the voice sounds (rule R53). -/
def Voices.envsFollow (vs : Voices) (v : Voice) : Prop := ∀ e ∈ vs.envs v, e.isActive = vs.playing v

/-- At most two bursts are left, and none for an Idle Clap (rules R9, R211, R289). -/
def Clap.burstsOk (p : Clap) : Prop := p.burstsLeft ≤ 2 ∧ (p.isPlaying = false → p.burstsLeft = 0)

/-- The flags agree where every voice's envelopes follow it and the Clap's bursts are in range. -/
theorem flagsAgree_iff (vs : Voices) : vs.flagsAgree ↔ (∀ v, vs.envsFollow v) ∧ vs.clap.burstsOk := by
  have all (p : Voice → Prop) : (∀ v, p v) ↔ ∀ v ∈ Voice.all, p v := by simp [Voice.mem_all]
  rw [all]
  simp only [Voice.all, List.forall_mem_cons, List.not_mem_nil, false_implies, implies_true, and_true,
    Voices.envsFollow, Voices.envs, Voices.playing, Clap.burstsOk, Voices.flagsAgree]
  tauto

theorem envsFollow_of_agreeOn {a b : Voices} {v : Voice} (same : a.agreeOn b v) (h : b.envsFollow v) :
    a.envsFollow v := by
  unfold Voices.envsFollow
  rw [Voices.envs_of_agreeOn same, Voices.playing_of_agreeOn same]
  exact h

/-- Envelopes that were active are active after ageing unless the voice completed. -/
theorem isActive_of_mem_aged {es : List Env} (h : ∀ e ∈ es, e.isActive = true) (d : Bool) :
    ∀ e ∈ es.map (Env.aged d), e.isActive = !d := by
  simp only [List.mem_map, forall_exists_index, and_imp, forall_apply_eq_imp_iff₂]
  intro e mem
  simp only [Env.aged, h e mem, Bool.true_and]

/-- A burst switches on what is on already. -/
theorem Clap.burst_active (P : Params) {p : Clap} (h : p.sawEnv.isActive = true) :
    (p.burst P).sawEnv.isActive = true := by
  unfold Clap.burst
  split
  · rfl
  · exact h

theorem Clap.burst_revEnv (P : Params) (p : Clap) : (p.burst P).revEnv = p.revEnv := by
  unfold Clap.burst; split <;> rfl

theorem Clap.burst_burstsLeft_le (P : Params) (p : Clap) : (p.burst P).burstsLeft ≤ p.burstsLeft := by
  unfold Clap.burst
  split
  · exact Nat.sub_le _ _
  · exact Nat.le_refl _

theorem runVoices_envsFollow (P : Params) (r : Word) {vs : Voices} {v : Voice} (h : vs.envsFollow v) :
    (runVoices P r vs).voices.envsFollow v := by
  rcases on : vs.playing v with _ | _
  · exact envsFollow_of_agreeOn (runVoices_idle P r vs on).2.2 h
  · have active : ∀ e ∈ vs.envs v, e.isActive = true := fun e mem => (h e mem).trans on
    unfold Voices.envsFollow
    by_cases clap : v = .clap
    · subst clap
      obtain ⟨saw, rev, -, -, playing⟩ := runVoices_clap P r on
      have both := isActive_of_mem_aged (es := [(vs.clap.burst P).sawEnv, (vs.clap.burst P).revEnv])
      simp only [Voices.envs, List.forall_mem_cons, List.not_mem_nil, false_implies, implies_true, and_true,
        List.map_cons, List.map_nil] at active both ⊢
      rw [saw, rev]
      refine (both ⟨Clap.burst_active P active.1, ?_⟩ _).imp (·.trans playing.symm) (·.trans playing.symm)
      rw [Clap.burst_revEnv]
      exact active.2
    · obtain ⟨envs, playing⟩ := runVoices_sounding P r on clap
      rw [envs, playing]
      exact isActive_of_mem_aged active _

/-- A Clap that completes has no burst left. -/
theorem runVoices_burstsOk (P : Params) (r : Word) {vs : Voices} (h : vs.clap.burstsOk) :
    (runVoices P r vs).voices.clap.burstsOk := by
  rcases on : vs.clap.isPlaying with _ | _
  · have same : (runVoices P r vs).voices.clap = vs.clap := (runVoices_idle (v := .clap) P r vs on).2.2
    rwa [same]
  · obtain ⟨-, -, left, -, playing⟩ := runVoices_clap P r on
    unfold Clap.burstsOk
    rw [left, playing]
    refine ⟨(Clap.burst_burstsLeft_le P vs.clap).trans h.1, fun completed => ?_⟩
    simp only [Bool.not_eq_false', Bool.and_eq_true, beq_iff_eq] at completed
    exact completed.2

end Sys2Proof

namespace Sys2Proof.Machine

theorem triggerVoice_flagsAgree {vs : Voices} (h : vs.flagsAgree) (w : Voice) (val : F32) :
    (triggerVoice reference w val vs).flagsAgree := by
  rw [flagsAgree_iff] at h ⊢
  obtain ⟨follow, bursts⟩ := h
  refine ⟨fun v => ?_, ?_⟩
  · by_cases own : v = w
    · subst own
      unfold Voices.envsFollow
      rw [triggerVoice_envs, triggerVoice_playing]
      simp only [List.mem_map, forall_exists_index, and_imp, forall_apply_eq_imp_iff₂]
      exact fun e _ => rfl
    · exact envsFollow_of_agreeOn (triggerVoice_agreeOn reference w val vs own) (follow v)
  · by_cases clap : Voice.clap = w
    · subst clap
      have left : (triggerVoice reference .clap val vs).clap.burstsLeft = 2 :=
        (triggerVoice_clap_bursts reference val vs).1
      have on : (triggerVoice reference .clap val vs).clap.isPlaying = true :=
        triggerVoice_playing reference .clap val vs
      unfold Clap.burstsOk
      rw [left, on]
      exact ⟨le_rfl, nofun⟩
    · have same : (triggerVoice reference w val vs).clap = vs.clap := triggerVoice_agreeOn reference w val vs clap
      rwa [same]

/-- SETP writes no flag of an envelope, no flag of a voice and no burst. -/
theorem writeReg_flagsAgree {vs : Voices} (h : vs.flagsAgree) (r : Reg) (val : F32) :
    (writeReg reference r val vs).flagsAgree := by
  cases r <;> exact h

/-- Settles O56. -/
theorem envelopeFlagsFollowTheVoice : Obligations.EnvelopeFlagsFollowTheVoice := by
  intro s t h next
  rw [step_eq] at next
  refine stepIn_invariant (fun _ v => v.flagsAgree) (by decide +kernel) (fun _ _ _ inv => inv)
    (fun _ _ w val _ inv => triggerVoice_flagsAgree inv w val) (fun _ _ r val _ inv => writeReg_flagsAgree inv r val)
    (fun _ _ _ _ inv => inv) (fun m v _ inv => ?_) s t h next
  rw [flagsAgree_iff] at inv ⊢
  obtain ⟨follow, bursts⟩ := inv
  exact ⟨fun w => runVoices_envsFollow reference m.rng (follow w), runVoices_burstsOk reference m.rng bursts⟩

end Sys2Proof.Machine

/-!
Values clamped and stored: `clamp` (rule R14), SETMV (rule R316), and SETP of the Kick, the Cymbal and the HiHat (rules
R213, R230, R236).
-/

namespace Sys2Proof

/-! ### clamp (rule R14) -/

/-- A clamp takes a value below the range to its lower bound. -/
theorem clamp_of_lt {x lo hi : F32} (ordered : F32.le lo hi = true) (below : F32.lt x lo = true) :
    reference.clamp x lo hi = lo := by
  obtain ⟨lo_num, hi_num, lo_le⟩ := (F32.le_iff _ _).1 ordered
  have inside : F32.lt hi lo = false := (F32.lt_false_iff hi_num lo_num).2 lo_le
  simp [reference_clamp, reference_max, reference_min, below, inside]

/-- A clamp takes a value above the range to its upper bound. -/
theorem clamp_of_gt {x lo hi : F32} (ordered : F32.le lo hi = true) (above : F32.lt hi x = true) :
    reference.clamp x lo hi = hi := by
  obtain ⟨hi_num, x_num, hi_lt⟩ := (F32.lt_iff _ _).1 above
  obtain ⟨lo_num, -, lo_le⟩ := (F32.le_iff _ _).1 ordered
  have inside : F32.lt x lo = false := (F32.lt_false_iff x_num lo_num).2 (lo_le.trans hi_lt.le)
  simp [reference_clamp, reference_max, reference_min, above, inside]

/-- Settles O37. -/
theorem clampHoldsTheRange : Obligations.ClampHoldsTheRange := fun _ _ x ordered num =>
  ⟨clamp_within x ordered num, fun inside => clamp_eq_self inside.1 inside.2, clamp_of_lt ordered, clamp_of_gt ordered⟩

end Sys2Proof

namespace Sys2Proof.Machine

/-- Settles O14: the volume is clamped to [0, 1]. -/
theorem setmvStoresTheClampedVolume : Obligations.SetmvStoresTheClampedVolume := by
  intro val s finite
  obtain ⟨within, keeps, below, above⟩ :=
    clampHoldsTheRange F32.zero F32.one val (by decide) (F32.isNaN_of_isFinite finite)
  exact ⟨_, exec_setmv finite s, within, keeps, below, above⟩

/-- Settles O19. -/
theorem setpKick : Obligations.SetpKick := fun _ s finite =>
  ⟨exec_setp (r := .kickDecay) rfl finite s, exec_setp (r := .kickTone) rfl finite s⟩

end Sys2Proof.Machine

namespace Sys2Proof

theorem cw_setp_cymbal_decay (val : F32) : (Instr.setp .cymbal .decay val).cw = 0x22000000 :=
  (cw_setp .cymbal .decay val).trans (by decide)

theorem cw_setp_cymbal_tone (val : F32) : (Instr.setp .cymbal .tone val).cw = 0x22100000 :=
  (cw_setp .cymbal .tone val).trans (by decide)

/-- The HiHat's two decay times are above TIME_MIN_MS. -/
theorem clampTime_hihatDecay (opened : Bool) :
    reference.clampTime (reference.hihatDecay opened) = if opened then F32.lit 400 0 else F32.lit 50 0 := by
  cases opened <;> decide +kernel

theorem Hihat.setOpen_reference (c : Hihat) (val : F32) :
    c.setOpen reference val = { c with
      opened := F32.le (F32.lit 5 1) val
      env := { c.env with
        decayMs := if F32.le (F32.lit 5 1) val = true then F32.lit 400 0 else F32.lit 50 0 } } := by
  simp only [Hihat.setOpen, Env.setDecay, clampTime_hihatDecay, reference_le, reference_cfg, referenceCfg]

end Sys2Proof

namespace Sys2Proof.Machine

/-- Settles O21. -/
theorem setpCymbal : Obligations.SetpCymbal := by
  refine fun val s finite => ⟨?decayWord, ?toneWord, exec_setp (r := .cymbalDecay) rfl finite s,
    exec_setp (r := .cymbalTone) rfl finite s⟩
  case decayWord =>
    rw [← cw_setp_cymbal_decay val]
    exact decode_setp_of_register (r := .cymbalDecay) rfl finite
  case toneWord =>
    rw [← cw_setp_cymbal_tone val]
    exact decode_setp_of_register (r := .cymbalTone) rfl finite

/-- Settles O22. -/
theorem setpHihat : Obligations.SetpHihat := by
  intro val s finite
  rw [← Hihat.setOpen_reference]
  exact exec_setp (r := .hihatOpen) rfl finite s

end Sys2Proof.Machine

/-!
The order of binary32 results: which values a product, a quotient or a sum lies between, for the components below.
-/

namespace Sys2Proof.F32

theorem sign_of_key_pos {x : F32} (h : 0 < x.key) : x.sign = false := by
  unfold key at h
  rcases hs : x.sign with _ | _
  · rfl
  · rw [hs, if_pos rfl] at h
    omega

theorem mag_eq_key {x : F32} (h : 0 ≤ x.key) : (x.mag : Int) = x.key := by
  rw [← natAbs_key]; omega

/-- `+0.0` divided by a positive finite value is `+0.0`. -/
theorem zero_div {x : F32} (finite : x.isFinite = true) (positive : 0 < x.key) : div zero x = zero := by
  have mag : (x.mag == 0) = false := by rw [beq_eq_false_iff_ne, ne_eq, ← key_eq_zero_iff]; omega
  have zero_classes : zero.isNaN = false ∧ zero.isInf = false ∧ zero.sign = false ∧ zero.mag = 0 := by decide
  obtain ⟨nan, inf, sign, zero_mag⟩ := zero_classes
  simp only [div, nan, inf, sign, zero_mag, isNaN_of_isFinite finite, isInf_of_isFinite finite,
    sign_of_key_pos positive, mag, Bool.or_self, Bool.and_false, Bool.false_eq_true, if_false, bne_self_eq_false,
    Nat.zero_mul, round, roundMag_zero]
  decide

/-- A quotient grows with its dividend and falls with its divisor. -/
theorem div_mono_anti {a b c d : F32} (ha : a.isFinite = true) (hb : b.isFinite = true) (hc : c.isFinite = true)
    (hd : d.isFinite = true) (h0 : 0 ≤ b.key) (hd0 : 0 < d.key) (hab : a.key ≤ b.key) (hdc : d.key ≤ c.key) :
    (div a c).key ≤ (div b d).key := by
  rw [(div_finite ha hc (hd0.trans_le hdc)).2, (div_finite hb hd hd0).2]
  have hcm := mag_eq_key (hd0.trans_le hdc).le
  have hdm := mag_eq_key hd0.le
  refine rnd_mono (by omega) (by omega) ?_
  rw [hcm, hdm]
  have scaled : a.key * 2 ^ 149 ≤ b.key * 2 ^ 149 := Int.mul_le_mul_of_nonneg_right hab (by positivity)
  calc a.key * 2 ^ 149 * d.key ≤ b.key * 2 ^ 149 * d.key := Int.mul_le_mul_of_nonneg_right scaled hd0.le
    _ ≤ b.key * 2 ^ 149 * c.key := Int.mul_le_mul_of_nonneg_left hdc (by positivity)

/-- A value whose `key` is that of a finite value is finite. -/
theorem isFinite_of_key_eq {x y : F32} (h : x.key = y.key) (hy : y.isFinite = true) : x.isFinite = true :=
  isFinite_of_between hy hy h.ge h.le

/-- Multiplying by 1.0 keeps the value. -/
theorem key_one_mul {x : F32} (hx : x.isFinite = true) : (mul one x).key = x.key := by
  rw [(mul_finite (by decide) hx).2, key_one, mul_comm]
  have scale := rnd_scale x.key (d := 1) (c := 2 ^ 149) (by norm_num) (by positivity)
  rw [one_mul, Nat.cast_pow, Nat.cast_ofNat] at scale
  rw [scale, rnd_key (isNaN_of_isFinite hx)]

end Sys2Proof.F32

/-!
The envelope (rules R160 to R168): its age, its level in each phase and its monotonicity.
-/

namespace Sys2Proof

open F32

/-! ### The age (rule R164) -/

theorem toNat_satInc (a : Word) : (satInc a).toNat = min (a.toNat + 1) (2 ^ 32 - 1) := by
  have bound := a.isLt
  unfold satInc
  split
  · rename_i full
    subst full
    rfl
  · rename_i room
    have below : a.toNat ≠ 2 ^ 32 - 1 := fun h => room (BitVec.eq_of_toNat_eq h)
    rw [BitVec.toNat_add, show (1 : Word).toNat = 1 from rfl]
    omega

/-- Settles O45. -/
theorem ageSaturates : Obligations.AgeSaturates := fun e => ⟨rfl, toNat_satInc e.age⟩

/-! ### ENV_LEVEL in the decay to sustain level 0 (rule R161) -/

/-- The part of the decay time `D` that has passed at the time `t`, `A` being the attack time. -/
def decayPart (A D t : F32) : F32 := div (sub t A) D

/-- The level in the decay to sustain level `+0.0`. -/
def decayCurve (A D t : F32) : F32 := sub one (mul (sub one zero) (decayPart A D t))

theorem Env.level_decayCurve {e : Env} (active : e.isActive = true) (sustain : e.sustain = zero)
    (attacked : lt (e.time reference) e.attackMs = false)
    (decaying : lt (e.time reference) (add e.attackMs e.decayMs) = true) :
    e.level reference = decayCurve e.attackMs e.decayMs (e.time reference) := by
  rw [Env.level_decay active attacked decaying, sustain, decayCurve, decayPart]

/-- The times, attack times and decay times for which the decay is well behaved: finite, the decay at least
TIME_MIN_MS, the attack over. -/
structure DecayTimes (A D t : F32) : Prop where
  attack_finite : A.isFinite = true
  attack_nonneg : 0 ≤ A.key
  decay_finite : D.isFinite = true
  decay_min : (F32.lit 1 1).key ≤ D.key
  attack_over : A.key ≤ t.key
  time_finite : t.isFinite = true
  time_max : t.key ≤ (⟨0x4CFA0000⟩ : F32).key

theorem lit_tenth_pos : 0 < (F32.lit 1 1).key := by decide +kernel

theorem DecayTimes.decay_pos {A D t : F32} (h : DecayTimes A D t) : 0 < D.key :=
  lit_tenth_pos.trans_le h.decay_min

/-- The time since the attack is finite and not negative. -/
theorem DecayTimes.sub_range {A D t : F32} (h : DecayTimes A D t) :
    (sub t A).isFinite = true ∧ 0 ≤ (sub t A).key ∧ (sub t A).key ≤ (⟨0x4CFA0000⟩ : F32).key := by
  obtain ⟨-, key⟩ := sub_finite h.time_finite h.attack_finite
  have low : 0 ≤ (sub t A).key := by rw [key]; exact rnd_nonneg _ (sub_nonneg.2 h.attack_over)
  have high : (sub t A).key ≤ (⟨0x4CFA0000⟩ : F32).key := by
    rw [key]
    refine rnd_le_key (by norm_num) (by decide) ?_
    have := h.time_max
    have := h.attack_nonneg
    simp only [Nat.cast_one, mul_one]
    omega
  exact ⟨isFinite_of_between (a := zero) (b := ⟨0x4CFA0000⟩) (by decide) (by decide) (key_zero.le.trans low) high, low,
    high⟩

theorem DecayTimes.part_range {A D t : F32} (h : DecayTimes A D t) :
    (decayPart A D t).isFinite = true ∧ 0 ≤ (decayPart A D t).key := by
  obtain ⟨finite, low, high⟩ := h.sub_range
  have below : (decayPart A D t).key ≤ (div ⟨0x4CFA0000⟩ (F32.lit 1 1)).key :=
    div_mono_anti finite (by decide) h.decay_finite (by decide +kernel) (by decide +kernel) lit_tenth_pos high h.decay_min
  have above : 0 ≤ (decayPart A D t).key := by
    rw [decayPart, (div_finite finite h.decay_finite h.decay_pos).2]
    exact rnd_nonneg _ (by positivity)
  exact ⟨isFinite_of_between (a := zero) (b := div ⟨0x4CFA0000⟩ (F32.lit 1 1)) (by decide) (by decide +kernel)
    (key_zero.le.trans above) below, above⟩

/-- The level falls with time, and is lower for a shorter decay. -/
theorem decayCurve_anti {A D D' t t' : F32} (h : DecayTimes A D t) (h' : DecayTimes A D' t') (time : t.key ≤ t'.key)
    (decay : D'.key ≤ D.key) : (decayCurve A D' t').key ≤ (decayCurve A D t).key := by
  obtain ⟨finite, -, -⟩ := h.sub_range
  obtain ⟨finite', low', -⟩ := h'.sub_range
  obtain ⟨part, -⟩ := h.part_range
  obtain ⟨part', -⟩ := h'.part_range
  have passed : (sub t A).key ≤ (sub t' A).key :=
    sub_mono h.time_finite h.attack_finite h'.time_finite h.attack_finite time le_rfl
  have parts : (decayPart A D t).key ≤ (decayPart A D' t').key :=
    div_mono_anti finite finite' h.decay_finite h'.decay_finite low' h'.decay_pos passed decay
  have full : sub one zero = one := by decide +kernel
  unfold decayCurve
  rw [full]
  refine sub_mono (by decide) (isFinite_of_key_eq (key_one_mul part') part') (by decide)
    (isFinite_of_key_eq (key_one_mul part) part) le_rfl ?_
  rwa [key_one_mul part, key_one_mul part']

theorem DecayTimes.curve_isNaN {A D t : F32} (h : DecayTimes A D t) : (decayCurve A D t).isNaN = false := by
  obtain ⟨part, -⟩ := h.part_range
  have full : sub one zero = one := by decide +kernel
  unfold decayCurve
  rw [full]
  exact (sub_finite (by decide) (isFinite_of_key_eq (key_one_mul part) part)).1

/-- A sum of attack and decay is not below the attack. -/
theorem attack_le_add {A D : F32} (hA : A.isFinite = true) (hD : D.isFinite = true) (hD0 : 0 ≤ D.key) :
    A.key ≤ (add A D).key := by
  rw [(add_finite hA hD).2]
  refine key_le_rnd (by norm_num) (isNaN_of_isFinite hA) ?_
  rw [Nat.cast_one, mul_one]
  omega

/-! ### The two statements -/

theorem time_isNaN (e : Env) : (e.time reference).isNaN = false := isNaN_of_isFinite (timeOf_range e.age).1

/-- Settles O44: the phases are those of ENV_LEVEL, the times being numbers. -/
theorem envelopeEnds : Obligations.EnvelopeEnds := by
  intro e hA hA0 hD hD0 P t
  have time : t = e.time reference := by
    rw [Env.time_eq, timeOf_eq]
    simp only [t, P, reference_mul, reference_ofWord]
    rfl
  obtain ⟨-, -, pos⟩ := (lt_iff _ _).1 hA0
  obtain ⟨-, -, dpos⟩ := (lt_iff _ _).1 hD0
  rw [key_zero] at pos dpos
  have num := time_isNaN e
  have anum := isNaN_of_isFinite hA
  simp only [time, P, reference_div, reference_add, reference_sub, reference_mul, lit_one]
  refine ⟨fun active => ⟨fun h => Env.level_attack active h, fun h h2 => ?decay, fun h => ?ended, fun age => ?start⟩,
    fun idle => ⟨Env.level_inactive _ idle, Env.done_inactive _ idle⟩⟩
  case decay => exact Env.level_decay active ((lt_false_iff num anum).2 ((le_iff _ _).1 h).2.2) h2
  case ended =>
    obtain ⟨snum, -, passed⟩ := (le_iff _ _).1 h
    have attacked : e.attackMs.key ≤ (e.time reference).key := (attack_le_add hA hD dpos.le).trans passed
    have level : e.level reference = e.sustain :=
      Env.level_sustain active ((lt_false_iff num anum).2 attacked) ((lt_false_iff num snum).2 passed)
    refine ⟨level, fun sustain => (Env.done_active active).2 ⟨(le_iff _ _).2 ⟨anum, num, attacked⟩, ?_⟩⟩
    rw [level, sustain]
    decide
  case start =>
    have now : e.time reference = zero := by rw [Env.time_eq, age]; decide +kernel
    refine ⟨?_, ?_⟩
    · rw [Env.level_attack active (by rwa [now]), now, zero_div hA pos]
    · rw [← Bool.not_eq_true, Env.done_active active, now]
      rintro ⟨early, -⟩
      have := ((le_iff _ _).1 early).2.2
      rw [key_zero] at this
      omega

/-- Settles O43: the attack divides a growing time by one attack time; the decay follows `decayCurve`. -/
theorem envelopeIsMonotoneInEachPhase : Obligations.EnvelopeIsMonotoneInEachPhase := by
  intro e a b active hA hAmin hab
  have order : (reference.timeOf a).key ≤ (reference.timeOf b).key := timeOf_mono hab
  obtain ⟨fa, a0, amax⟩ := timeOf_range a
  obtain ⟨fb, b0, bmax⟩ := timeOf_range b
  have anum := isNaN_of_isFinite hA
  have pos : 0 < e.attackMs.key := lit_tenth_pos.trans_le ((le_iff _ _).1 hAmin).2.2
  refine ⟨fun attack => ?_, fun sustain hD hDmin attacked decaying => ?_⟩
  · have earlier : lt (Env.time reference { e with age := a }) e.attackMs = true :=
      (lt_iff _ _).2 ⟨isNaN_of_isFinite fa, anum, order.trans_lt ((lt_iff _ _).1 attack).2.2⟩
    rw [Env.level_attack (e := { e with age := a }) active earlier,
      Env.level_attack (e := { e with age := b }) active attack]
    exact (le_iff _ _).2 ⟨(div_finite fa hA pos).1, (div_finite fb hA pos).1, div_mono fa fb hA pos order⟩
  · obtain ⟨-, -, over_a⟩ := (le_iff _ _).1 attacked
    obtain ⟨-, sum, decaying_b⟩ := (lt_iff _ _).1 decaying
    obtain ⟨-, -, min⟩ := (le_iff _ _).1 hDmin
    have over_b : e.attackMs.key ≤ (reference.timeOf b).key := over_a.trans order
    have times_a : DecayTimes e.attackMs e.decayMs (reference.timeOf a) := ⟨hA, pos.le, hD, min, over_a, fa, amax⟩
    have times_b : DecayTimes e.attackMs e.decayMs (reference.timeOf b) := ⟨hA, pos.le, hD, min, over_b, fb, bmax⟩
    rw [Env.level_decayCurve (e := { e with age := a }) active sustain
        ((lt_false_iff (isNaN_of_isFinite fa) anum).2 over_a)
        ((lt_iff _ _).2 ⟨isNaN_of_isFinite fa, sum, order.trans_lt decaying_b⟩),
      Env.level_decayCurve (e := { e with age := b }) active sustain
        ((lt_false_iff (isNaN_of_isFinite fb) anum).2 over_b) decaying]
    exact (le_iff _ _).2 ⟨times_b.curve_isNaN, times_a.curve_isNaN, decayCurve_anti times_a times_b order le_rfl⟩

end Sys2Proof

/-!
Oscillators and the bridged-T (rules R130 to R134, R140 to R143): increments of clamped frequencies, phases that stay in
[0, 2 pi), ringing amplitudes that do not grow.
-/

namespace Sys2Proof

open F32

theorem key_lit_zero_le {x : F32} (h : le zero x = true) : 0 ≤ x.key := by
  rw [← key_zero]; exact ((le_iff _ _).1 h).2.2

/-! ### Clamped frequencies and their angles (rule R130) -/

theorem freqMin_le_freqMax : le (F32.lit 1 0) reference.freqMax = true := by decide +kernel

theorem zero_le_freqMin : le zero (F32.lit 1 0) = true := by decide

theorem freqMax_finite : reference.freqMax.isFinite = true := by decide +kernel

/-- A frequency between 0 and FREQ_MAX, as the droop of a bridged-T leaves it too. -/
abbrev F32.isFrequency (f : F32) : Prop := within zero reference.freqMax f

theorem isFrequency_of_within {lo f : F32} (h0 : le zero lo = true) (h : within lo reference.freqMax f) :
    f.isFrequency := ⟨le_trans h0 h.1, h.2⟩

theorem F32.isFrequency.finite {f : F32} (h : f.isFrequency) : f.isFinite = true :=
  isFinite_of_le (by decide) freqMax_finite h.1 h.2

theorem clampFreq_within {f : F32} (h : f.isNaN = false) : within (F32.lit 1 0) reference.freqMax (reference.clampFreq f) :=
  clamp_within f freqMin_le_freqMax h

theorem angle_eq (f : F32) : reference.angle f = div (mul twoPi f) (F32.lit 32768 0) := by
  rw [Params.angle, reference_div, reference_mul, reference_fs]

/-- 2 pi times a frequency is finite. -/
theorem twoPi_mul_finite {f : F32} (h : f.isFrequency) : (mul twoPi f).isFinite = true := by
  have low := mul_mono_right (c := twoPi) (by decide) (show zero.isFinite = true by decide) h.finite (by decide +kernel)
    (key_zero.le.trans (key_lit_zero_le h.1))
  have high := mul_mono_right (c := twoPi) (by decide) h.finite freqMax_finite (by decide +kernel)
    ((le_iff _ _).1 h.2).2.2
  exact isFinite_of_between (by decide +kernel) (by decide +kernel) low high

theorem angle_isNaN {f : F32} (h : f.isFrequency) : (reference.angle f).isNaN = false := by
  rw [angle_eq]
  exact (div_finite (twoPi_mul_finite h) (by decide +kernel) (by decide +kernel)).1

/-- The angle grows with the frequency. -/
theorem angle_mono {f g : F32} (hf : f.isFrequency) (hg : g.isFrequency) (h : f.key ≤ g.key) :
    (reference.angle f).key ≤ (reference.angle g).key := by
  rw [angle_eq, angle_eq]
  exact div_mono (twoPi_mul_finite hf) (twoPi_mul_finite hg) (by decide +kernel) (by decide +kernel)
    (mul_mono_right (by decide) hf.finite hg.finite (by decide +kernel) h)

theorem angle_isIncrement {f : F32} (h : f.isFrequency) : (reference.angle f).isIncrement := by
  have zero_freq : zero.isFrequency := by decide +kernel
  have max_freq : reference.freqMax.isFrequency := by decide +kernel
  have zero_angle : (reference.angle zero).key = zero.key := by decide +kernel
  have num := angle_isNaN h
  refine ⟨(le_iff _ _).2 ⟨by decide, num, ?_⟩, (le_iff _ _).2 ⟨num, angle_isNaN max_freq, ?_⟩⟩
  · rw [← zero_angle]
    exact angle_mono zero_freq h (key_zero.le.trans (key_lit_zero_le h.1))
  · exact angle_mono h max_freq ((le_iff _ _).1 h.2).2.2

/-- Settles O38. -/
theorem setFreqGivesALegalIncrement : Obligations.SetFreqGivesALegalIncrement := fun _ _ finite =>
  have within := clampFreq_within (isNaN_of_isFinite finite)
  ⟨within, rfl, angle_isIncrement (isFrequency_of_within zero_le_freqMin within)⟩

/-! ### Phases (rules R34, R131, R143) -/

/-- A phase advanced by an increment and wrapped is a phase: the sum is below 4 pi. -/
theorem wrapPhase_isPhase {p i : F32} (hp : p.isPhase) (hi : i.isIncrement) :
    (reference.wrapPhase (reference.add p i)).isPhase := by
  obtain ⟨-, -, below⟩ := (lt_iff _ _).1 hp.2
  obtain ⟨-, -, small⟩ := (le_iff _ _).1 hi.2
  have p0 := key_lit_zero_le hp.1
  have i0 := key_lit_zero_le hi.1
  have pf : p.isFinite = true :=
    isFinite_of_between (a := zero) (b := twoPi) (by decide) (by decide) (key_zero.le.trans p0) below.le
  have inc_finite : (reference.angle reference.freqMax).isFinite = true := by decide +kernel
  have fi : i.isFinite = true := isFinite_of_le (by decide) inc_finite hi.1 hi.2
  have num := (add_finite pf fi).1
  have s0 : zero.key ≤ (add p i).key := by
    rw [(add_finite pf fi).2, key_zero]; exact rnd_nonneg _ (add_nonneg p0 i0)
  have s1 := add_mono pf fi (show twoPi.isFinite = true by decide) inc_finite below.le small
  rw [Params.wrapPhase, reference_add, reference_le, reference_sub]
  rcases wrap : le twoPi (add p i) with _ | _
  · rw [le_false_iff (by decide) num] at wrap
    simp only [Bool.false_eq_true, if_false]
    exact ⟨(le_iff _ _).2 ⟨by decide, num, s0⟩, (lt_iff _ _).2 ⟨num, by decide, wrap⟩⟩
  · have up := ((le_iff _ _).1 wrap).2.2
    have bound : (add twoPi (reference.angle reference.freqMax)).isFinite = true := by decide +kernel
    have sf : (add p i).isFinite = true := isFinite_of_between (by decide) bound s0 s1
    have two : twoPi.isFinite = true := by decide
    have d0 := sub_mono two two sf two up le_rfl
    have d1 := sub_mono sf two bound two s1 le_rfl
    have k0 : (sub twoPi twoPi).key = zero.key := by decide +kernel
    have k1 : (sub (add twoPi (reference.angle reference.freqMax)) twoPi).key < twoPi.key := by decide +kernel
    have dnum := (sub_finite sf two).1
    simp only [if_true]
    exact ⟨(le_iff _ _).2 ⟨by decide, dnum, k0.symm.le.trans d0⟩, (lt_iff _ _).2 ⟨dnum, by decide, d1.trans_lt k1⟩⟩

/-- OSC_ADVANCE keeps the phase in range (rule R131). -/
theorem Osc.phaseOk_advance {o : Osc} (h : o.phaseOk) : (o.advance reference).phaseOk :=
  ⟨wrapPhase_isPhase h.1 h.2, h.2⟩

/-- Settles O39. -/
theorem advanceKeepsThePhaseInRange : Obligations.AdvanceKeepsThePhaseInRange := by
  refine ⟨fun P o => ?_, fun _ => Osc.phaseOk_advance⟩
  rw [← negOne_eq, lit_one]
  exact ⟨rfl, rfl, rfl, rfl⟩

/-! ### The bridged-T (rules R35, R141, R143) -/

/-- What BT_GEN leaves of a ringing bridged-T. -/
theorem Bt.next_active (P : Params) {b : Bt} (h : b.active = true) :
    b.next P = { b with
      phase := P.wrapPhase (P.add b.phase (P.angle (b.droop P)))
      amp := P.mul b.amp (P.sub F32.one b.decayRate)
      active := !P.le (P.mul b.amp (P.sub F32.one b.decayRate)) F32.thresh } := if_pos h

theorem Bt.next_silent (P : Params) {b : Bt} (h : b.active = false) : b.next P = b :=
  if_neg (ne_true_of_eq_false h)

theorem Bt.out_active (P : Params) {b : Bt} (h : b.active = true) : b.out P = P.mul b.amp (P.sin b.phase) := if_pos h

theorem Bt.out_silent (P : Params) {b : Bt} (h : b.active = false) : b.out P = F32.zero :=
  if_neg (ne_true_of_eq_false h)

/-- A factor in [0, 1] takes a value that is not negative to one between 0 and it (rule R14). -/
theorem within_mul {lo hi x y : F32} (hx : within lo hi x) (h0 : le zero lo = true) (fin : hi.isFinite = true)
    (hy : within zero one y) : within zero hi (mul x y) ∧ le (mul x y) x = true := by
  have x0 := le_trans h0 hx.1
  have finite : x.isFinite = true := isFinite_of_le (by decide) fin x0 hx.2
  obtain ⟨low, high⟩ := mul_range finite (key_lit_zero_le x0) hy.1 hy.2
  exact ⟨⟨low, le_trans high hx.2⟩, high⟩

/-- The frequency droops with the amplitude, to no less than 0. -/
theorem Bt.droop_isFrequency {b : Bt} (h : b.ok) : (b.droop reference).isFrequency := by
  obtain ⟨freq, -, amp, -⟩ := h
  have fm : within zero one (F32.lit 1 1) := by decide +kernel
  obtain ⟨bend, -⟩ := within_mul fm (by decide) (by decide) amp
  obtain ⟨droop, -⟩ := within_mul freq zero_le_freqMin freqMax_finite (one_sub_range bend.1 bend.2)
  rw [Bt.droop, reference_mul, reference_mul, reference_sub]
  exact droop

/-- The decayed amplitude of a ringing bridged-T in range is in range and not above the amplitude before. -/
theorem Bt.decayed_amp {b : Bt} (h : b.ok) : let a := reference.mul b.amp (reference.sub one b.decayRate)
    within zero one a ∧ le a b.amp = true := by
  obtain ⟨-, -, amp, rate⟩ := h
  rw [reference_mul, reference_sub]
  exact within_mul amp (by decide) (by decide) (one_sub_range rate.1 rate.2)

theorem Bt.ok_next {b : Bt} (h : b.ok) : (b.next reference).ok := by
  rcases on : b.active with _ | _
  · rwa [Bt.next_silent reference on]
  · obtain ⟨amp, -⟩ := Bt.decayed_amp h
    have droop := angle_isIncrement (Bt.droop_isFrequency h)
    rw [Bt.next_active reference on]
    obtain ⟨freq, phase, -, rate⟩ := h
    exact ⟨freq, wrapPhase_isPhase phase droop, amp, rate⟩

/-- The reference arithmetic at another FS and other constants. -/
structure Params.IeeeArithmetic (P : Params) : Prop where
  num : P.num = ieeeBinary32
  ftz : P.ftz = false

section IeeeArithmetic

variable {P : Params} (h : P.IeeeArithmetic) (a b : F32)

include h

theorem Params.IeeeArithmetic.mul_eq : P.mul a b = F32.mul a b := by
  rw [Params.mul, Params.result, h.ftz, h.num]; rfl

theorem Params.IeeeArithmetic.div_eq : P.div a b = F32.div a b := by
  rw [Params.div, Params.result, h.ftz, h.num]; rfl

theorem Params.IeeeArithmetic.max_eq : P.max a b = if F32.lt a b then b else a := by
  rw [Params.max, Params.lt, h.num]; rfl

end IeeeArithmetic

/-- A finite value, or the bound where it is below, is finite and at least the bound. -/
theorem max_range {x lo : F32} (hx : x.isFinite = true) (hlo : lo.isFinite = true) :
    (if F32.lt x lo then lo else x).isFinite = true ∧ lo.key ≤ (if F32.lt x lo then lo else x).key := by
  rcases below : F32.lt x lo with _ | _
  · rw [lt_false_iff (isNaN_of_isFinite hx) (isNaN_of_isFinite hlo)] at below
    simpa using ⟨hx, below⟩
  · simpa using hlo

/-- A finite value divided by an infinity that the product of positive values overflowed to is `+0.0`. -/
theorem div_of_overflow {a b : F32} (ha : a.isFinite = true) (hs : a.sign = false) (hb : b.isInf = true)
    (hbs : b.sign = false) :
    div a b = zero := by
  have bmag := (isInf_iff b).1 hb
  have bnan : b.isNaN = false := by rw [isNaN_false_iff, bmag]
  have bmag0 : (b.mag == 0) = false := by
    rw [beq_eq_false_iff_ne, mag_eq_patternMag, bmag]; decide
  simp only [div, isNaN_of_isFinite ha, isInf_of_isFinite ha, bnan, hb, hs, hbs, bmag0, Bool.or_self,
    Bool.and_false, Bool.false_eq_true, if_false, if_true, bne_self_eq_false, Bool.and_true]
  decide

/-- 1000 over a decay time of at least 0.1 ms times a legal FS is in [0, 1]; the product may overflow (rule R141). -/
theorem decayRate_within {d fs : F32} (hd : d.isFinite = true) (hd0 : (F32.lit 1 1).key ≤ d.key)
    (hlo : le (F32.lit 10000 0) fs = true) (hhi : le fs (F32.lit 48000 0) = true) :
    within zero one (div (F32.lit 1000 0) (mul d fs)) := by
  have ffs : fs.isFinite = true := isFinite_of_le (by decide +kernel) (by decide +kernel) hlo hhi
  obtain ⟨num, key⟩ := mul_finite hd ffs
  have floor : (F32.lit 1000 0).key ≤ (mul d fs).key := by
    have least := mul_mono (show (F32.lit 1 1).isFinite = true by decide +kernel)
      (show (F32.lit 10000 0).isFinite = true by decide +kernel) hd ffs hd0 ((le_iff _ _).1 hlo).2.2
      (lit_tenth_pos.le.trans hd0) (by decide +kernel)
    have start : (F32.lit 1000 0).key ≤ (mul (F32.lit 1 1) (F32.lit 10000 0)).key := by decide +kernel
    exact start.trans least
  have positive : 0 < (mul d fs).key := lt_of_lt_of_le (by decide +kernel) floor
  rcases inf : (mul d fs).isInf with _ | _
  · have finite : (mul d fs).isFinite = true := by
      rw [isFinite_iff]
      rw [isNaN_false_iff] at num
      rw [isInf_false_iff] at inf
      omega
    have unit : (F32.lit 1000 0).isFinite = true := by decide +kernel
    have quotient := div_finite unit finite positive
    have small := div_mono_anti unit unit finite unit (by decide +kernel) (by decide +kernel) le_rfl floor
    have full : (div (F32.lit 1000 0) (F32.lit 1000 0)).key = one.key := by decide +kernel
    refine ⟨(le_iff _ _).2 ⟨by decide, quotient.1, ?_⟩, (le_iff _ _).2 ⟨quotient.1, by decide, small.trans full.le⟩⟩
    rw [key_zero, quotient.2]
    exact rnd_nonneg _ (by decide +kernel)
  · rw [div_of_overflow (by decide +kernel) (by decide +kernel) inf (sign_of_key_pos positive)]
    decide

/-- BT_SETDECAY of a finite time gives a decay rate in [0, 1] (rule R141). -/
theorem Bt.decayRate_setDecay {P : Params} (arith : P.IeeeArithmetic) (timeMin : P.cfg.timeMinMs = F32.lit 1 1)
    (legal : P.legal) (b : Bt) {ms : F32} (finite : ms.isFinite = true) :
    within zero one (b.setDecay P ms).decayRate := by
  obtain ⟨⟨lo, hi⟩, -⟩ := legal
  have rate : (b.setDecay P ms).decayRate
      = div (F32.lit 1000 0) (mul (if F32.lt ms (F32.lit 1 1) then F32.lit 1 1 else ms) P.fs) := by
    rw [← timeMin, ← arith.max_eq, ← arith.mul_eq, ← arith.div_eq]
    rfl
  obtain ⟨fin, least⟩ := max_range finite (lo := F32.lit 1 1) (by decide +kernel)
  rw [rate]
  exact decayRate_within fin least lo hi

/-- Settles O40. -/
theorem bridgedTStaysInRange : Obligations.BridgedTStaysInRange := by
  refine ⟨fun b on => ?_, fun b off => ?_, fun b ok => ⟨Bt.ok_next ok, fun on => ?_⟩, fun B b ms num ftz timeMin =>
    Bt.decayRate_setDecay ⟨num, ftz⟩ timeMin B.legal b⟩
  · dsimp only
    rw [Bt.gen, Bt.out_active reference on, Bt.next_active reference on, lit_one]
    rfl
  · rw [Bt.gen, Bt.out_silent reference off, Bt.next_silent reference off]
  · rw [Bt.next_active reference on]
    refine ⟨(Bt.decayed_amp ok).2, ?_⟩
    simp only [Bool.not_eq_false', reference_le]

end Sys2Proof

/-!
The values after RESET (rule R383), and the invariant of phases and ringing amplitudes (rules R34, R35, R141, R143).
-/

namespace Sys2Proof.Machine

/-- Settles O52: every row of the table is a closed fact. -/
theorem resetValues : Obligations.ResetValues := by
  refine ⟨?_, ?_, ?_, ?_, ?_, ?_, ?_, ?_, ?_, ?_, ?_⟩
  all_goals decide +kernel

/-- The phases, the bridged-Ts and the Kick's pitch envelope after RESET, part by part. -/
theorem reset_phasesOk : State.reset.phasesOk := by
  refine ⟨⟨?_, ?_, ?_, ?_, ?_⟩, ⟨?_, ?_, ?_⟩, ?_, ?_, ⟨?_, ?_, ?_⟩, ⟨?_, ?_, ?_⟩, ⟨?_, ?_⟩, ?_, ?_, ?_, ?_⟩
  all_goals decide +kernel

/-- Settles O53. -/
theorem resetMeetsTheInvariants : Obligations.ResetMeetsTheInvariants :=
  ⟨reset_registersLegal, derived_voicesReset reference, by decide +kernel, reset_phasesOk, referenceInstance.legal.2⟩

end Sys2Proof.Machine

namespace Sys2Proof

open F32

/-! ### The Kick's pitch (rule R214) -/

/-- The level of an envelope of the pitch envelope's shape (1 ms up, 30 ms down to 0) is in [0, 1]. -/
theorem pitchLevel_within {e : Env} (attack : e.attackMs = F32.lit 1 0) (decay : e.decayMs = F32.lit 30 0)
    (sustain : e.sustain = zero) : within zero one (e.level reference) := by
  rcases active : e.isActive with _ | _
  · rw [Env.level_inactive reference active]; decide
  have time : e.time reference = reference.timeOf e.age := rfl
  obtain ⟨finite, low, high⟩ := timeOf_range e.age
  rw [← time] at finite low high
  have num := isNaN_of_isFinite finite
  have fA : (F32.lit 1 0).isFinite = true := by decide
  have fD : (F32.lit 30 0).isFinite = true := by decide +kernel
  have pA : 0 < (F32.lit 1 0).key := by decide +kernel
  rcases attacking : lt (e.time reference) e.attackMs with _ | _
  case true =>
    rw [Env.level_attack active attacking]
    rw [attack] at attacking ⊢
    have top : (div (F32.lit 1 0) (F32.lit 1 0)).key = one.key := by decide +kernel
    obtain ⟨quotient, key⟩ := div_finite finite fA pA
    refine ⟨(le_iff _ _).2 ⟨by decide, quotient, ?_⟩, (le_iff _ _).2 ⟨quotient, by decide, ?_⟩⟩
    · rw [key_zero, key]
      exact rnd_nonneg _ (by positivity)
    · rw [← top]
      exact div_mono finite fA fA pA ((lt_iff _ _).1 attacking).2.2.le
  rcases decaying : lt (e.time reference) (add e.attackMs e.decayMs) with _ | _
  · rw [Env.level_sustain active attacking decaying, sustain]; decide
  rw [Env.level_decayCurve active sustain attacking decaying]
  rw [attack] at attacking ⊢
  rw [attack, decay] at decaying
  rw [decay]
  have attacked := (lt_false_iff num (by decide)).1 attacking
  have before := ((lt_iff _ _).1 decaying).2.2.le
  have fS : (add (F32.lit 1 0) (F32.lit 30 0)).isFinite = true := by decide +kernel
  have times : DecayTimes (F32.lit 1 0) (F32.lit 30 0) (e.time reference) :=
    ⟨fA, pA.le, fD, by decide +kernel, attacked, finite, high⟩
  obtain ⟨fpart, part0⟩ := times.part_range
  have top : (div (sub (add (F32.lit 1 0) (F32.lit 30 0)) (F32.lit 1 0)) (F32.lit 30 0)).key = one.key := by
    decide +kernel
  have part1 : (decayPart (F32.lit 1 0) (F32.lit 30 0) (e.time reference)).key ≤ one.key := by
    rw [← top]
    exact div_mono times.sub_range.1 (by decide +kernel) fD times.decay_pos (sub_mono finite fA fS fA before le_rfl)
  have full : sub one zero = one := by decide +kernel
  rw [decayCurve, full]
  have same := key_one_mul fpart
  have pnum := (mul_finite (show one.isFinite = true by decide) fpart).1
  refine one_sub_range ((le_iff _ _).2 ⟨by decide, pnum, ?_⟩) ((le_iff _ _).2 ⟨pnum, by decide, ?_⟩)
  · rw [same, key_zero]; exact part0
  · rw [same]; exact part1

/-- The pitch envelope's frequency is a number, so the bridged-T's clamp takes it into range. -/
theorem Kick.pitch_isNaN {k : Kick} (attack : k.pitchEnv.attackMs = F32.lit 1 0)
    (decay : k.pitchEnv.decayMs = F32.lit 30 0) (sustain : k.pitchEnv.sustain = zero) :
    (k.pitch reference).isNaN = false := by
  have level := pitchLevel_within attack decay sustain
  have two : (F32.lit 2 0).isFinite = true := by decide
  have two_key : (0 : Int) ≤ (F32.lit 2 0).key := by decide +kernel
  have unit : one.isFinite = true := by decide
  obtain ⟨bend0, bend1⟩ := mul_range two two_key level.1 level.2
  have fbend := isFinite_of_le (by decide) two bend0 bend1
  have low := add_mono unit (show zero.isFinite = true by decide) unit fbend le_rfl ((le_iff _ _).1 bend0).2.2
  have high := add_mono unit fbend unit two le_rfl ((le_iff _ _).1 bend1).2.2
  have fsum : (add one (mul (F32.lit 2 0) (k.pitchEnv.level reference))).isFinite = true :=
    isFinite_of_between (by decide +kernel) (by decide +kernel) low high
  have pitch : k.pitch reference = mul (F32.lit 50 0) (add one (mul (F32.lit 2 0) (k.pitchEnv.level reference))) := by
    simp only [Kick.pitch, reference_mul, reference_add, reference_cfg, referenceCfg]
  rw [pitch]
  exact (mul_finite (by decide +kernel) fsum).1

/-! ### The components in range -/

theorem Bt.ok_setFreq {b : Bt} (h : b.ok) {f : F32} (num : f.isNaN = false) : (b.setFreq reference f).ok :=
  ⟨clampFreq_within num, h.2⟩

theorem zero_isPhase : zero.isPhase := by decide

theorem one_within_unit : within zero one one := by decide

theorem Bt.ok_trigger {b : Bt} (h : b.ok) : b.trigger.ok := ⟨h.1, zero_isPhase, one_within_unit, h.2.2.2⟩

theorem Osc.phaseOk_restart {o : Osc} (h : o.phaseOk) (frt : Bool) : (o.restart frt).phaseOk := ⟨zero_isPhase, h.2⟩

theorem Bank.phaseOk_map {b : Bank} {f : Osc → Osc} (hf : ∀ {o : Osc}, o.phaseOk → (f o).phaseOk) (h : b.phaseOk) :
    (b.map f).phaseOk := by
  obtain ⟨h0, h1, h2, h3, h4, h5⟩ := h
  exact ⟨hf h0, hf h1, hf h2, hf h3, hf h4, hf h5⟩

/-- A value in a range between finite bounds is a number. -/
theorem isNaN_of_holds {r : Range} {x : F32} (h : r.holds x) : x.isNaN = false := ((le_iff _ _).1 h.1).2.1

/-! ### The voices in range -/

def Kick.inPhase (k : Kick) : Prop :=
  k.bt.ok ∧ k.sub.phaseOk ∧ k.pitchEnv.attackMs = referenceCfg.attMs
    ∧ k.pitchEnv.decayMs = referenceCfg.kickPitchDecay ∧ k.pitchEnv.sustain = referenceCfg.sustain

def Snare.inPhase (n : Snare) : Prop := n.bt1.ok ∧ n.bt2.ok ∧ n.noise.phaseOk

def Drum.inPhase (r : Range) (g : Drum) : Prop := g.bt.ok ∧ g.pinkOsc.phaseOk ∧ r.holds g.tuning

def Rimshot.inPhase (m : Rimshot) : Prop := m.inh.o1.phaseOk ∧ m.inh.o2.phaseOk

def Cowbell.inPhase (b : Cowbell) : Prop := b.o1.phaseOk ∧ b.o2.phaseOk

/-- The invariant, one part per voice. -/
theorem phasesOk_iff (vs : Voices) : vs.phasesOk ↔ vs.kick.inPhase ∧ vs.snare.inPhase ∧ vs.cymbal.osc.phaseOk
    ∧ vs.hihat.osc.phaseOk ∧ vs.tom.inPhase referenceCfg.tomTuning ∧ vs.conga.inPhase referenceCfg.congaTuning
    ∧ vs.rimshot.inPhase ∧ vs.maracas.noise.phaseOk ∧ vs.clap.noise.phaseOk ∧ vs.cowbell.inPhase := Iff.rfl

/-! ### A tick -/

section Tick

variable (r : Word)

theorem kick_inPhase {k : Kick} (h : k.inPhase) : (voiceProcess kickTemplate reference r k).voice.inPhase := by
  refine voiceProcess_by_cases reference r kickTemplate Kick.inPhase (fun _ => h) fun on => ?_
  rw [kick_process reference r on]
  obtain ⟨bt, sub, attack, decay, sustain⟩ := h
  have pitch := Kick.pitch_isNaN attack decay (sustain.trans lit_zero)
  exact ⟨Bt.ok_next (Bt.ok_setFreq bt pitch), Osc.phaseOk_advance sub, attack, decay, sustain⟩

theorem snare_inPhase {n : Snare} (h : n.inPhase) : (voiceProcess snareTemplate reference r n).voice.inPhase := by
  refine voiceProcess_by_cases reference r snareTemplate Snare.inPhase (fun _ => h) fun on => ?_
  rw [snare_process reference r on]
  exact ⟨Bt.ok_next h.1, Bt.ok_next h.2.1, h.2.2⟩

theorem cymbal_inPhase {c : Cymbal} (h : c.osc.phaseOk) :
    (voiceProcess cymbalTemplate reference r c).voice.osc.phaseOk := by
  refine voiceProcess_by_cases reference r cymbalTemplate (·.osc.phaseOk) (fun _ => h) fun on => ?_
  rw [cymbal_process reference r on]
  exact Bank.phaseOk_map Osc.phaseOk_advance h

theorem hihat_inPhase {c : Hihat} (h : c.osc.phaseOk) :
    (voiceProcess hihatTemplate reference r c).voice.osc.phaseOk := by
  refine voiceProcess_by_cases reference r hihatTemplate (·.osc.phaseOk) (fun _ => h) fun on => ?_
  rw [hihat_process reference r on]
  exact Bank.phaseOk_map Osc.phaseOk_advance h

theorem Drum.inPhase_after {range : Range} {g : Drum} (h : g.inPhase range) : (g.after reference r).inPhase range :=
  ⟨Bt.ok_next h.1, h.2⟩

/-- The bend of a frequency in range is a number, which the clamp takes into range (rule R262). -/
theorem Drum.inPhase_tomBend {range : Range} {g : Drum} (h : g.inPhase range) : (tomBend reference g).inPhase range := by
  have freq : g.bt.freq.isFrequency := isFrequency_of_within zero_le_freqMin h.1.1
  have bent := mul_finite freq.finite (show (F32.lit 95 2).isFinite = true by decide +kernel)
  refine ⟨Bt.ok_setFreq h.1 ?_, h.2⟩
  rw [reference_mul]
  exact bent.1

theorem tom_inPhase {range : Range} {g : Drum} (h : g.inPhase range) :
    (voiceProcess tomTemplate reference r g).voice.inPhase range := by
  refine voiceProcess_by_cases reference r tomTemplate (·.inPhase range) (fun _ => h) fun on => ?_
  rw [tom_process reference r on]
  exact Drum.inPhase_tomBend (Drum.inPhase_after r h)

theorem conga_inPhase {range : Range} {g : Drum} (h : g.inPhase range) :
    (voiceProcess congaTemplate reference r g).voice.inPhase range := by
  refine voiceProcess_by_cases reference r congaTemplate (·.inPhase range) (fun _ => h) fun on => ?_
  rw [conga_process reference r on]
  exact Drum.inPhase_after r h

theorem rimshot_inPhase {m : Rimshot} (h : m.inPhase) :
    (voiceProcess rimshotTemplate reference r m).voice.inPhase := by
  refine voiceProcess_by_cases reference r rimshotTemplate Rimshot.inPhase (fun _ => h) fun on => ?_
  rw [rimshot_process reference r on]
  exact ⟨Osc.phaseOk_advance h.1, Osc.phaseOk_advance h.2⟩

theorem cowbell_inPhase {b : Cowbell} (h : b.inPhase) :
    (voiceProcess cowbellTemplate reference r b).voice.inPhase := by
  refine voiceProcess_by_cases reference r cowbellTemplate Cowbell.inPhase (fun _ => h) fun on => ?_
  rw [cowbell_process reference r on]
  exact ⟨Osc.phaseOk_advance h.1, Osc.phaseOk_advance h.2⟩

/-- No graph writes the Maracas' noise oscillator. -/
theorem maracas_noise (P : Params) (m : Maracas) : (voiceProcess maracasTemplate P r m).voice.noise = m.noise :=
  voiceProcess_keeps maracasTemplate P Maracas.noise (fun _ _ => rfl) (fun _ => rfl) (fun _ => rfl) r m

theorem Clap.burst_noise (P : Params) (p : Clap) : (p.burst P).noise = p.noise := by
  unfold Clap.burst; split <;> rfl

/-- No graph writes the Clap's noise oscillator. -/
theorem clap_noise (P : Params) (p : Clap) : (voiceProcess clapTemplate P r p).voice.noise = p.noise :=
  voiceProcess_keeps clapTemplate P Clap.noise (fun _ p => p.burst_noise P) (fun _ => rfl) (fun _ => rfl) r p

theorem runVoices_phasesOk {vs : Voices} (h : vs.phasesOk) : (runVoices reference r vs).voices.phasesOk := by
  rw [phasesOk_iff] at h ⊢
  obtain ⟨kick, snare, cymbal, hihat, tom, conga, rimshot, maracas, clap, cowbell⟩ := h
  simp only [Tick.voices, runVoices, maracas_noise, clap_noise]
  exact ⟨kick_inPhase _ kick, snare_inPhase _ snare, cymbal_inPhase _ cymbal, hihat_inPhase _ hihat,
    tom_inPhase _ tom, conga_inPhase _ conga, rimshot_inPhase _ rimshot, maracas, clap, cowbell_inPhase _ cowbell⟩

end Tick

/-! ### TRIG and SETP -/

/-- A drum's retuning to a legal tuning keeps its bridged-T in range. -/
theorem Bt.ok_retune {b : Bt} (h : b.ok) {r : Range} {tuning : F32} (legal : r.holds tuning) :
    (b.setFreq reference tuning).ok := Bt.ok_setFreq h (isNaN_of_holds legal)

/-- BT_SETDECAY of a finite time keeps a bridged-T in range. -/
theorem Bt.ok_setDecay {b : Bt} (h : b.ok) {ms : F32} (finite : ms.isFinite = true) : (b.setDecay reference ms).ok :=
  ⟨h.1, h.2.1, h.2.2.1, Bt.decayRate_setDecay ⟨rfl, rfl⟩ rfl referenceInstance.legal b finite⟩

end Sys2Proof

namespace Sys2Proof.Machine

theorem triggerVoice_phasesOk {vs : Voices} (h : vs.phasesOk) (w : Voice) (val : F32) :
    (triggerVoice reference w val vs).phasesOk := by
  rw [phasesOk_iff] at h ⊢
  obtain ⟨kick, snare, cymbal, hihat, tom, conga, rimshot, maracas, clap, cowbell⟩ := h
  have restart {o : Osc} (ok : o.phaseOk) : (o.restart true).phaseOk := Osc.phaseOk_restart ok true
  cases w with
  | kick =>
    exact ⟨⟨Bt.ok_trigger kick.1, restart kick.2.1, kick.2.2⟩, snare, cymbal, hihat, tom, conga, rimshot, maracas, clap,
      cowbell⟩
  | snare =>
    exact ⟨kick, ⟨Bt.ok_trigger snare.1, Bt.ok_trigger snare.2.1, restart snare.2.2⟩, cymbal, hihat, tom, conga, rimshot,
      maracas, clap, cowbell⟩
  | cymbal =>
    exact ⟨kick, snare, Bank.phaseOk_map restart cymbal, hihat, tom, conga, rimshot, maracas, clap, cowbell⟩
  | hihat => exact ⟨kick, snare, cymbal, Bank.phaseOk_map restart hihat, tom, conga, rimshot, maracas, clap, cowbell⟩
  | tom =>
    exact ⟨kick, snare, cymbal, hihat, ⟨Bt.ok_retune (Bt.ok_trigger tom.1) tom.2.2, restart tom.2.1, tom.2.2⟩, conga,
      rimshot, maracas, clap, cowbell⟩
  | conga =>
    exact ⟨kick, snare, cymbal, hihat, tom, ⟨Bt.ok_retune (Bt.ok_trigger conga.1) conga.2.2, restart conga.2.1,
      conga.2.2⟩, rimshot, maracas, clap, cowbell⟩
  | rimshot =>
    exact ⟨kick, snare, cymbal, hihat, tom, conga, ⟨restart rimshot.1, restart rimshot.2⟩, maracas, clap, cowbell⟩
  | maracas => exact ⟨kick, snare, cymbal, hihat, tom, conga, rimshot, restart maracas, clap, cowbell⟩
  | clap => exact ⟨kick, snare, cymbal, hihat, tom, conga, rimshot, maracas, restart clap, cowbell⟩
  | cowbell =>
    exact ⟨kick, snare, cymbal, hihat, tom, conga, rimshot, maracas, clap, restart cowbell.1, restart cowbell.2⟩

/-- SETP of the Kick's decay and of the two tunings reaches a bridged-T; no other register does. -/
theorem writeReg_phasesOk {vs : Voices} (h : vs.phasesOk) (r : Reg) {val : F32} (finite : val.isFinite = true) :
    (writeReg reference r val vs).phasesOk := by
  cases r with
  | kickDecay =>
    have legal : referenceCfg.kickDecay.holds (reference.clampTo referenceCfg.kickDecay val) :=
      clampTo_holds (by decide +kernel) finite
    obtain ⟨⟨bt, kick⟩, rest⟩ := h
    exact ⟨⟨Bt.ok_setDecay bt (F32.isFinite_of_le (by decide +kernel) (by decide +kernel) legal.1 legal.2), kick⟩, rest⟩
  | tomTuning =>
    have legal : referenceCfg.tomTuning.holds (reference.clampTo referenceCfg.tomTuning val) :=
      clampTo_holds (by decide +kernel) finite
    obtain ⟨kick, snare, cymbal, hihat, ⟨bt, pink, -⟩, rest⟩ := h
    exact ⟨kick, snare, cymbal, hihat, ⟨Bt.ok_retune bt legal, pink, legal⟩, rest⟩
  | congaTuning =>
    have legal : referenceCfg.congaTuning.holds (reference.clampTo referenceCfg.congaTuning val) :=
      clampTo_holds (by decide +kernel) finite
    obtain ⟨kick, snare, cymbal, hihat, tom, ⟨bt, pink, -⟩, rest⟩ := h
    exact ⟨kick, snare, cymbal, hihat, tom, ⟨Bt.ok_retune bt legal, pink, legal⟩, rest⟩
  | kickTone | snareTone | snareSnappy | cymbalDecay | cymbalTone | hihatOpen => exact h

/-- Settles O57. -/
theorem phasesStayInRange : Obligations.PhasesStayInRange := by
  intro s t h next
  rw [step_eq] at next
  exact stepIn_invariant (fun _ v => v.phasesOk) reset_phasesOk (fun _ _ _ inv => inv)
    (fun _ _ w val _ inv => triggerVoice_phasesOk inv w val) (fun _ _ r _ finite inv => writeReg_phasesOk inv r finite)
    (fun _ _ _ _ inv => inv) (fun m _ _ inv => runVoices_phasesOk m.rng inv) s t h next

end Sys2Proof.Machine

/-!
The noise generator (rules R136 to R139): RNG_NEXT bit by bit, the draw as an exact value, and the bound on the pink-noise
memory.
-/

namespace Sys2Proof

open F32

/-! ### RNG_NEXT (rule R136) -/

theorem getLsbD_xor_shiftLeft (w : Word) (n : Nat) {k : Nat} (hk : k < 32) :
    (w ^^^ (w <<< n)).getLsbD k = xor (w.getLsbD k) (decide (n ≤ k) && w.getLsbD (k - n)) := by
  rw [BitVec.getLsbD_xor, BitVec.getLsbD_shiftLeft]
  rcases Nat.lt_or_ge k n with h | h
  · simp [h, Nat.not_le.2 h]
  · simp [h, hk, Nat.not_lt.2 h]

theorem getLsbD_xor_shiftRight (w : Word) (n k : Nat) :
    (w ^^^ (w >>> n)).getLsbD k = xor (w.getLsbD k) (decide (k + n < 32) && w.getLsbD (k + n)) := by
  rw [BitVec.getLsbD_xor, BitVec.getLsbD_ushiftRight, Nat.add_comm n k]
  rcases Nat.lt_or_ge (k + n) 32 with h | h
  · simp [h]
  · simp [BitVec.getLsbD_of_ge w (k + n) h]

/-- The three steps of RNG_NEXT, bit by bit. -/
theorem rngNext_bits (w : Word) (k : Nat) :
    let a := fun j => xor (w.getLsbD j) (decide (13 ≤ j) && w.getLsbD (j - 13))
    let b := fun j => xor (a j) (decide (j + 17 < 32) && a (j + 17))
    k < 32 → (rngNext w).getLsbD k = xor (b k) (decide (5 ≤ k) && b (k - 5)) := by
  intro a b hk
  have first (j : Nat) (hj : j < 32) : (w ^^^ (w <<< 13)).getLsbD j = a j := getLsbD_xor_shiftLeft w 13 hj
  have second (j : Nat) (hj : j < 32) :
      ((w ^^^ (w <<< 13)) ^^^ ((w ^^^ (w <<< 13)) >>> 17)).getLsbD j = b j := by
    rw [getLsbD_xor_shiftRight, first j hj]
    rcases Nat.lt_or_ge (j + 17) 32 with h | h
    · rw [first (j + 17) h]
    · simp only [b, Nat.not_lt.2 h, decide_false, Bool.false_and]
  unfold rngNext
  dsimp only
  rw [getLsbD_xor_shiftLeft _ 5 hk, second k hk, second (k - 5) (by omega)]

/-! ### The draw (rule R137) -/

/-- The word's upper 24 bits, signed. -/
theorem toInt_sshiftRight_eight (w : Word) : (w.sshiftRight 8).toInt = w.toInt / 2 ^ 8 := by
  rw [BitVec.toInt_sshiftRight, Int.shiftRight_eq_div_pow]
  rfl

theorem draw_range (w : Word) : -2 ^ 23 ≤ w.toInt / 2 ^ 8 ∧ w.toInt / 2 ^ 8 ≤ 2 ^ 23 - 1 := by
  have low := BitVec.le_toInt w
  have high := BitVec.toInt_lt (x := w)
  norm_num at low high ⊢
  omega

/-- An integer of at most 2^23 in magnitude times a power of two is a binary32 value. -/
theorem rnd_draw {z : Int} (h : -2 ^ 23 ≤ z ∧ z ≤ 2 ^ 23 - 1) {k : Nat} (hk : k ≤ 149) :
    rnd (z * 2 ^ k) 1 = z * 2 ^ k := by
  have small : z.natAbs < 2 ^ 24 := by norm_num at h ⊢; omega
  refine rnd_exact (m := z.natAbs) (k := k) (by rw [Int.natAbs_mul, Int.natAbs_pow]; rfl) small ?_
  calc z.natAbs * 2 ^ k ≤ 2 ^ 24 * 2 ^ 149 := Nat.mul_le_mul small.le (Nat.pow_le_pow_right (by norm_num) hk)
    _ < patternMag 0x7F800000 := by decide +kernel

theorem drawOf_reference (w : Word) : drawOf reference w = mul (ofInt (w.toInt / 2 ^ 8)) ⟨0x34000000#32⟩ := by
  rw [drawOf, reference_mul, reference_ofInt, toInt_sshiftRight_eight]

/-- The conversion to binary32 and the product by 2^-23 are both exact. -/
theorem drawOf_exact (w : Word) : (drawOf reference w).isFinite = true
    ∧ (drawOf reference w).key = (w.toInt / 2 ^ 8) * 2 ^ 126 := by
  have range := draw_range w
  rw [drawOf_reference]
  generalize w.toInt / 2 ^ 8 = z at range ⊢
  have whole : (ofInt z).key = z * 2 ^ 149 := by rw [(ofInt_spec z).2, rnd_draw range le_rfl]
  have low : (⟨0xCB000000⟩ : F32).key = -2 ^ 23 * 2 ^ 149 := by decide +kernel
  have high : (⟨0x4B000000⟩ : F32).key = 2 ^ 23 * 2 ^ 149 := by decide +kernel
  have finite : (ofInt z).isFinite = true := by
    refine isFinite_of_between (a := ⟨0xCB000000⟩) (b := ⟨0x4B000000⟩) (by decide) (by decide) ?_ ?_
    · rw [low, whole]; exact Int.mul_le_mul_of_nonneg_right range.1 (by norm_num)
    · rw [high, whole]; exact Int.mul_le_mul_of_nonneg_right (by omega) (by norm_num)
  have step : (⟨0x34000000#32⟩ : F32).key = 2 ^ 126 := by decide +kernel
  have step_finite : (⟨0x34000000#32⟩ : F32).isFinite = true := by decide
  have key : (mul (ofInt z) ⟨0x34000000#32⟩).key = z * 2 ^ 126 := by
    rw [(mul_finite finite step_finite).2, whole, step]
    have scale := rnd_scale (z * 2 ^ 126) (d := 1) (c := 2 ^ 149) (by norm_num) (by positivity)
    rw [one_mul, rnd_draw range (by norm_num)] at scale
    rw [← scale]
    congr 1
    push_cast
    ring
  refine ⟨isFinite_of_between (a := negOne) (b := one) (by decide) (by decide) ?_ ?_, key⟩
  · rw [key, key_negOne]
    omega
  · rw [key, key_one]
    omega

theorem drawOf_within (w : Word) : within negOne ⟨0x3F7FFFFE⟩ (drawOf reference w) := by
  obtain ⟨finite, key⟩ := drawOf_exact w
  have num := isNaN_of_isFinite finite
  have top : (⟨0x3F7FFFFE⟩ : F32).key = (2 ^ 23 - 1) * 2 ^ 126 := by decide +kernel
  have range := draw_range w
  refine ⟨(le_iff _ _).2 ⟨by decide, num, ?_⟩, (le_iff _ _).2 ⟨num, by decide, ?_⟩⟩
  · rw [key, key_negOne]; omega
  · rw [key, top]; omega

/-- Settles O41. -/
theorem noiseDrawIsExact : Obligations.NoiseDrawIsExact := by
  refine ⟨rngNext_bits, by decide, fun w => ⟨rfl, ?_⟩⟩
  obtain ⟨finite, key⟩ := drawOf_exact w
  exact ⟨finite, key, drawOf_within w⟩

/-! ### Pink noise (rule R139) -/

/-- A product by a factor that is not negative keeps [-1, 1] to the products of its ends. -/
theorem mul_unit_range {c x : F32} (hc : c.isFinite = true) (h0 : 0 ≤ c.key) (hx : within negOne one x) :
    (mul c negOne).key ≤ (mul c x).key ∧ (mul c x).key ≤ (mul c one).key := by
  have finite : x.isFinite = true := isFinite_of_le (by decide) (by decide) hx.1 hx.2
  exact ⟨mul_mono_right hc (by decide) finite h0 ((le_iff _ _).1 hx.1).2.2,
    mul_mono_right hc finite (by decide) h0 ((le_iff _ _).1 hx.2).2.2⟩

/-- Settles O42: the two weights add up to 1.0, which bounds the memory on either side. -/
theorem pinkNoiseStaysBounded : Obligations.PinkNoiseStaysBounded := by
  refine ⟨fun o r => rfl, fun o w pink => ?_⟩
  have draw : within negOne one (drawOf reference w) :=
    ⟨(drawOf_within w).1, le_trans (drawOf_within w).2 (by decide)⟩
  have step : o.pinkStep reference (drawOf reference w)
      = add (mul (F32.lit 98 2) o.pink) (mul (F32.lit 2 2) (drawOf reference w)) := by
    simp only [Osc.pinkStep, reference_add, reference_mul, reference_cfg, referenceCfg]
  rw [step]
  obtain ⟨a0, a1⟩ := mul_unit_range (c := F32.lit 98 2) (by decide +kernel) (by decide +kernel) pink
  obtain ⟨b0, b1⟩ := mul_unit_range (c := F32.lit 2 2) (by decide +kernel) (by decide +kernel) draw
  have fa := isFinite_of_between (by decide +kernel) (by decide +kernel) a0 a1
  have fb := isFinite_of_between (by decide +kernel) (by decide +kernel) b0 b1
  have low := add_mono (by decide +kernel) (by decide +kernel) fa fb a0 b0
  have high := add_mono fa fb (by decide +kernel) (by decide +kernel) a1 b1
  have bottom : negOne.key ≤ (add (mul (F32.lit 98 2) negOne) (mul (F32.lit 2 2) negOne)).key := by decide +kernel
  have top : (add (mul (F32.lit 98 2) one) (mul (F32.lit 2 2) one)).key ≤ one.key := by decide +kernel
  have num := (add_finite fa fb).1
  exact ⟨(le_iff _ _).2 ⟨by decide, num, bottom.trans low⟩, (le_iff _ _).2 ⟨num, by decide, high.trans top⟩⟩

end Sys2Proof

/-!
Filters, the reference functions, the processor and the quantiser (rules R15, R180 to R185, R200, R201, R322, R323).
-/

namespace Sys2Proof

open F32

/-! ### The recursions (rules R183 to R185) -/

/-- Settles O47. -/
theorem filterRecursions : Obligations.FilterRecursions := by
  unfold Obligations.FilterRecursions
  rw [lit_one]
  exact fun P f x => ⟨rfl, rfl, rfl⟩

/-! ### The pole (rules R180, R182) -/

theorem Flt.setCutoff_reference (f : Flt) (fc : F32) :
    let c := reference.clamp fc (F32.lit 20 0) reference.freqMax
    let w := reference.div (reference.mul ⟨0x40C90FDB⟩ c) (F32.lit 32768 0)
    let a := reference.div (reference.sin w) (reference.mul (F32.lit 2 0) f.q)
    f.setCutoff reference fc = { f with
      cutoff := c
      alpha := reference.div w (reference.add w one)
      beta := reference.div a (reference.add one a)
      gamma := reference.div (reference.mul (F32.lit 2 0) (reference.cos w)) (reference.add one a)
      delta := reference.div (reference.sub one a) (reference.add one a) } := rfl

/-- Between two bounds `lo` and `hi` the pole of an angle is below 1 if already `hi` over `lo + 1` is. -/
theorem pole_lt_one_between {w lo hi : F32} (flo : lo.isFinite = true) (fhi : hi.isFinite = true)
    (lo0 : 0 ≤ lo.key) (h1 : lo.key ≤ w.key) (h2 : w.key ≤ hi.key)
    (below : (div hi (add lo one)).key < one.key) (sum : (add lo one).isFinite = true) (pos : 0 < (add lo one).key)
    (top : (add hi one).isFinite = true) : lt (div w (add w one)) one = true := by
  have fw : w.isFinite = true := isFinite_of_between flo fhi h1 h2
  have unit : one.isFinite = true := by decide
  have low := add_mono flo unit fw unit h1 le_rfl
  have high := add_mono fw unit fhi unit h2 le_rfl
  have fsum : (add w one).isFinite = true := isFinite_of_between sum top low high
  have bound := div_mono_anti fw fhi fsum sum (lo0.trans (h1.trans h2)) pos h2 low
  exact (lt_iff _ _).2 ⟨(div_finite fw fsum (pos.trans_le low)).1, by decide, bound.trans_lt below⟩

/-- The pole of an angle between 0 and that of FREQ_MAX is below 1: the angle's range in four pieces. -/
theorem pole_lt_one {w : F32} (h : w.isIncrement) : lt (div w (add w one)) one = true := by
  have low := key_lit_zero_le h.1
  have high : w.key ≤ (⟨0x4034F4AB⟩ : F32).key := by
    have := ((le_iff _ _).1 h.2).2.2
    rwa [angle_freqMax_eq] at this
  rcases le_or_gt w.key (F32.lit 9 1).key with h1 | h1
  · exact pole_lt_one_between (lo := zero) (hi := F32.lit 9 1) (by decide) (by decide +kernel) (by decide)
      (key_zero.le.trans low) h1 (by decide +kernel) (by decide +kernel) (by decide +kernel) (by decide +kernel)
  rcases le_or_gt w.key (F32.lit 18 1).key with h2 | h2
  · exact pole_lt_one_between (lo := F32.lit 9 1) (hi := F32.lit 18 1) (by decide +kernel) (by decide +kernel)
      (by decide +kernel) h1.le h2 (by decide +kernel) (by decide +kernel) (by decide +kernel) (by decide +kernel)
  rcases le_or_gt w.key (F32.lit 27 1).key with h3 | h3
  · exact pole_lt_one_between (lo := F32.lit 18 1) (hi := F32.lit 27 1) (by decide +kernel) (by decide +kernel)
      (by decide +kernel) h2.le h3 (by decide +kernel) (by decide +kernel) (by decide +kernel) (by decide +kernel)
  · exact pole_lt_one_between (lo := F32.lit 27 1) (hi := ⟨0x4034F4AB⟩) (by decide +kernel) (by decide +kernel)
      (by decide +kernel) h3.le high (by decide +kernel) (by decide +kernel) (by decide +kernel) (by decide +kernel)

/-- The pole of an angle from that of FILT_MIN on is above 0. -/
theorem pole_pos {w : F32} (h : w.isIncrement) (low : (reference.angle (F32.lit 20 0)).key ≤ w.key) :
    lt zero (div w (add w one)) = true := by
  have fmax : (reference.angle reference.freqMax).isFinite = true := by decide +kernel
  have fmin : (reference.angle (F32.lit 20 0)).isFinite = true := by decide +kernel
  have fw : w.isFinite = true := isFinite_of_le (by decide) fmax h.1 h.2
  have unit : one.isFinite = true := by decide
  have ftop : (add (reference.angle reference.freqMax) one).isFinite = true := by decide +kernel
  have high := add_mono fw unit fmax unit ((le_iff _ _).1 h.2).2.2 le_rfl
  have bottom := add_mono (show zero.isFinite = true by decide) unit fw unit
    (key_zero.le.trans (key_lit_zero_le h.1)) le_rfl
  have fsum : (add w one).isFinite = true := isFinite_of_between (by decide +kernel) ftop bottom high
  have pos : 0 < (add w one).key := lt_of_lt_of_le (by decide +kernel) bottom
  have least := div_mono_anti fmin fw ftop fsum (key_lit_zero_le h.1) pos low high
  have positive : zero.key < (div (reference.angle (F32.lit 20 0)) (add (reference.angle reference.freqMax) one)).key := by
    decide +kernel
  exact (lt_iff _ _).2 ⟨by decide, (div_finite fw fsum pos).1, positive.trans_le least⟩

/-- Settles O46: the pole is that of an angle between those of FILT_MIN and FREQ_MAX. -/
theorem setCutoffGivesALegalPole : Obligations.SetCutoffGivesALegalPole := by
  unfold Obligations.SetCutoffGivesALegalPole
  rw [lit_one]
  refine ⟨Flt.setCutoff_reference, fun f q => ?_, fun f fc finite => ?_⟩
  · simp only [Flt.setCutoff_reference, q]
    decide +kernel
  · have within := clamp_within fc (lo := F32.lit 20 0) (hi := reference.freqMax) (by decide +kernel)
      (isNaN_of_isFinite finite)
    have freq := isFrequency_of_within (by decide) within
    have angle := angle_isIncrement freq
    have low := angle_mono (f := F32.lit 20 0) (by decide +kernel) freq ((le_iff _ _).1 within.1).2.2
    have alpha : (f.setCutoff reference fc).alpha = div (reference.angle (reference.clamp fc (F32.lit 20 0) reference.freqMax))
        (add (reference.angle (reference.clamp fc (F32.lit 20 0) reference.freqMax)) one) := by
      rw [← reference_add, ← reference_div]
      rfl
    rw [alpha]
    exact ⟨within, pole_pos angle low, pole_lt_one angle⟩

/-! ### SIN and TANH (rule R15) -/

theorem neg_ofMagBits (s : Bool) {b : Nat} (h : b < 2 ^ 31) : (ofMagBits s b).neg = ofMagBits (!s) b := by
  rw [neg_eq, sign_ofMagBits s h, magBits_ofMagBits s h]

/-- The pattern of the magnitude of TANH at the magnitude `m` in fixed point. -/
def Trig.tanhPattern (m : Nat) : Nat :=
  if 16 * Trig.unit ≤ m then 0x3F800000
  else min 0x3F800000 (roundMag (Trig.positive (m * m / Trig.unit) 100 1 m * 2 ^ 149)
    (Trig.positive (m * m / Trig.unit) 100 0 Trig.unit))

theorem Trig.tanhPattern_le (m : Nat) : Trig.tanhPattern m ≤ 0x3F800000 := by
  unfold Trig.tanhPattern
  split
  · exact le_rfl
  · exact min_le_left _ _

/-- TANH has the sign of its argument, and a magnitude that depends on the argument's magnitude alone. -/
theorem tanh_reference {x : F32} (num : x.isNaN = false) :
    reference.tanh x = ofMagBits x.sign (Trig.tanhPattern (Trig.fixed x)) := by
  change Trig.tanh x = _
  unfold Trig.tanh Trig.tanhPattern
  simp only [num, Bool.false_eq_true, if_false]
  split <;> rfl

theorem Trig.fixed_neg (x : F32) : Trig.fixed x.neg = Trig.fixed x := by
  unfold Trig.fixed
  rw [mag_eq_patternMag, mag_eq_patternMag, magBits_neg]

theorem tanh_neg {x : F32} (num : x.isNaN = false) : reference.tanh x.neg = (reference.tanh x).neg := by
  have small := Trig.tanhPattern_le (Trig.fixed x)
  rw [tanh_reference num, tanh_reference (by rwa [isNaN_neg]), neg_ofMagBits _ (by omega), sign_neg, Trig.fixed_neg]

theorem tanh_within {x : F32} (num : x.isNaN = false) : within negOne one (reference.tanh x) := by
  have small := Trig.tanhPattern_le (Trig.fixed x)
  rw [tanh_reference num]
  generalize Trig.tanhPattern (Trig.fixed x) = b at small
  have pattern : b < 2 ^ 31 := by omega
  have bound : patternMag b ≤ 2 ^ 149 := (patternMag_le_iff.2 small).trans (by decide +kernel)
  have number : (ofMagBits x.sign b).isNaN = false := by
    rw [isNaN_false_iff, magBits_ofMagBits _ pattern]; omega
  rw [within, le_iff, le_iff, key_negOne, key_one, key_ofMagBits _ pattern]
  refine ⟨⟨by decide, number, ?_⟩, number, by decide, ?_⟩
  all_goals
    split
    · omega
    · omega

/-- Settles O48. -/
theorem referenceFunctionProperties : Obligations.ReferenceFunctionProperties :=
  ⟨fun _ => tanh_neg, fun _ => tanh_within, by decide +kernel, by decide +kernel, by decide +kernel⟩

/-! ### The processor (rules R200, R201) -/

theorem Proc.saturate_of_le {p : Proc} (h : le p.sat zero = true) (x : F32) : p.saturate reference x = x := if_pos h

theorem Proc.saturate_of_pos {p : Proc} (h : lt zero p.sat = true) (x : F32) :
    p.saturate reference x = reference.div (reference.tanh (reference.mul x p.sat)) p.sat := by
  obtain ⟨-, num, pos⟩ := (lt_iff _ _).1 h
  exact if_neg (ne_true_of_eq_false ((le_false_iff num (by decide)).2 pos))

/-- A value in [-1, 1] over a positive one lies between the quotients of -1 and of 1. -/
theorem div_unit_within {y c : F32} (hy : within negOne one y) (hc : c.isFinite = true) (pos : 0 < c.key) :
    within (div one c).neg (div one c) (div y c) := by
  have unit : one.isFinite = true := by decide
  have minus : negOne.isFinite = true := by decide
  have fy : y.isFinite = true := isFinite_of_le minus unit hy.1 hy.2
  have num := (div_finite fy hc pos).1
  have top := (div_finite unit hc pos).1
  have opposite : (div negOne c).key = -(div one c).key := by
    rw [(div_finite minus hc pos).2, (div_finite unit hc pos).2, ← rnd_neg, key_negOne, key_one, neg_mul]
  have low := div_mono minus fy hc pos ((le_iff _ _).1 hy.1).2.2
  have high := div_mono fy unit hc pos ((le_iff _ _).1 hy.2).2.2
  refine ⟨(le_iff _ _).2 ⟨by rwa [isNaN_neg], num, ?_⟩, (le_iff _ _).2 ⟨num, top, high⟩⟩
  rw [key_neg, ← opposite]
  exact low

/-- Settles O49. -/
theorem processorSaturates : Obligations.ProcessorSaturates := by
  intro p x hx hsat
  refine ⟨fun none => ?_, fun some => ?_⟩
  · rw [Proc.run, Proc.saturate_of_le none]
  · rw [Proc.run, Proc.saturate_of_pos some]
    refine ⟨rfl, ?_⟩
    have driven : (reference.mul x p.sat).isNaN = false := by
      rw [reference_mul]; exact (mul_finite hx hsat).1
    rw [reference_div, reference_div]
    refine div_unit_within (tanh_within driven) hsat ?_
    rw [← key_zero]
    exact ((lt_iff _ _).1 some).2.2

/-! ### The quantiser and the clip (rules R322, R323) -/

theorem truncInt_eq (x : F32) : x.truncInt = x.key.tdiv (2 ^ 149) := by
  have scale : (2 ^ 149 : Int) = ((2 ^ 149 : Nat) : Int) := by norm_num
  unfold truncInt key
  rw [scale]
  split
  · rw [Int.neg_tdiv, Int.ofNat_tdiv]
  · rw [Int.ofNat_tdiv]

/-- The conversion to int16 of a finite value in its range is the value's whole part. -/
theorem toInt_toInt16 {x : F32} (finite : x.isFinite = true) (low : -32768 ≤ x.truncInt) (high : x.truncInt ≤ 32767) :
    (toInt16 x).toInt = x.truncInt := by
  rw [toInt16, if_pos ⟨finite, low, high⟩, BitVec.toInt_ofInt]
  exact Int.bmod_eq_of_le (by omega) (by omega)

theorem clip_of_within {x : F32} (h : within negOne one x) : reference.clip x = x := clamp_eq_self h.1 h.2

theorem quantise_of_within {x : F32} (h : within negOne one x) :
    (quantise reference x).toInt = (reference.mul x (F32.lit 32767 0)).key.tdiv (2 ^ 149)
    ∧ -32767 ≤ (quantise reference x).toInt ∧ (quantise reference x).toInt ≤ 32767 := by
  have finite : x.isFinite = true := isFinite_of_le (by decide) (by decide) h.1 h.2
  have scale : (F32.lit 32767 0).isFinite = true := by decide +kernel
  have low := mul_mono_left scale (by decide) finite (by decide +kernel) ((le_iff _ _).1 h.1).2.2
  have high := mul_mono_left scale finite (by decide) (by decide +kernel) ((le_iff _ _).1 h.2).2.2
  have bottom : (mul negOne (F32.lit 32767 0)).key = -32767 * 2 ^ 149 := by decide +kernel
  have top : (mul one (F32.lit 32767 0)).key = 32767 * 2 ^ 149 := by decide +kernel
  have product : (mul x (F32.lit 32767 0)).isFinite = true :=
    isFinite_of_between (by decide +kernel) (by decide +kernel) low high
  rw [bottom] at low
  rw [top] at high
  have whole := truncInt_eq (mul x (F32.lit 32767 0))
  have scaled (z : Int) : (z * 2 ^ 149).tdiv (2 ^ 149) = z := Int.mul_tdiv_cancel z (by norm_num)
  have least : -32767 ≤ (mul x (F32.lit 32767 0)).truncInt := by
    rw [whole, ← scaled (-32767)]
    exact Int.tdiv_le_tdiv (by norm_num) low
  have most : (mul x (F32.lit 32767 0)).truncInt ≤ 32767 := by
    rw [whole, ← scaled 32767]
    exact Int.tdiv_le_tdiv (by norm_num) high
  have value : (quantise reference x).toInt = (mul x (F32.lit 32767 0)).truncInt := by
    rw [quantise, clip_of_within h, reference_mul, reference_toInt16]
    exact toInt_toInt16 product (by omega) (by omega)
  rw [value, reference_mul]
  exact ⟨whole, least, most⟩

/-- Settles O50. -/
theorem quantiserTruncates : Obligations.QuantiserTruncates :=
  ⟨fun _ => quantise_of_within, by decide +kernel, by decide +kernel⟩

/-- The clip of a NaN is that NaN; of any other value it is in [-1, 1]. -/
theorem clip_cases (x : F32) :
    (reference.clip x).isNaN = true ∨ within negOne one (reference.clip x) := by
  rcases num : x.isNaN with _ | _
  · exact .inr (clamp_within x (by decide) num)
  · have below : lt x negOne = false := by simp [lt, num]
    have above : lt one x = false := by simp [lt, num]
    left
    rw [Params.clip, reference_clamp, reference_max, below, reference_min]
    simpa [above] using num

end Sys2Proof

namespace Sys2Proof.Machine

/-- Settles O36: the response is the quantised mixer output, which the clip bounds. -/
theorem sampleIsClipped : Obligations.SampleIsClipped := by
  intro s
  refine ⟨_, _, exec_sample s, rfl, ?_⟩
  refine (clip_cases (reference.mul ((s.runs reference).sum reference) s.mixer.master)).imp id fun within => ⟨within, ?_⟩
  obtain ⟨-, low, high⟩ := quantise_of_within within
  rw [sampleWord, BitVec.toInt_signExtend_of_le (by norm_num)]
  exact ⟨low, high⟩

end Sys2Proof.Machine

/-!
Runs of SAMPLE commands (rules R211, R262, R390, R391): what holds of the voices after `n` ticks, the Tom's bend, and the
end of every voice.
-/

namespace Sys2Proof.Machine

/-! ### A run of SAMPLE commands -/

/-- A SAMPLE command in front of the inputs makes the step one tick. -/
theorem step_sample {s : State} {rest : List Input} (h : s.inbox = .command .audio 0x80000000 0 :: rest) :
    ∃ t : State, step s = .next t ∧ t.inbox = rest ∧ t.voices = (runVoices reference s.mixer.rng s.voices).voices :=
  ⟨_, (step_of_decode_ok h (by decide)).trans (exec_sample _), rfl, rfl⟩

/-- A property of the voices, counted by ticks, that every tick carries on holds after a run of SAMPLE commands. -/
theorem run_samples {I : Nat → Voices → Prop}
    (tick : ∀ k r vs, I k vs → I (k + 1) (runVoices reference r vs).voices) :
    ∀ (n k : Nat) (s : State), s.inbox = List.replicate n (.command .audio 0x80000000 0) → I k s.voices →
      ∃ t : State, Sys2Proof.core.run n s = .next t ∧ I (k + n) t.voices
  | 0, _, s, _, h => ⟨s, rfl, h⟩
  | n + 1, k, s, inbox, h => by
    obtain ⟨u, one, rest, voices⟩ := step_sample inbox
    obtain ⟨t, run, holds⟩ := run_samples tick n (k + 1) u rest (voices ▸ tick k _ _ h)
    refine ⟨t, (run_next Sys2Proof.core n one).trans run, ?_⟩
    rwa [Nat.add_right_comm] at holds

end Sys2Proof.Machine

namespace Sys2Proof

open F32

/-- A voice that sounds after a tick sounded before it. -/
theorem playing_before {P : Params} {r : Word} {vs : Voices} {v : Voice}
    (after : (runVoices P r vs).voices.playing v = true) : vs.playing v = true := by
  rcases before : vs.playing v with _ | _
  · obtain ⟨-, -, kept⟩ := runVoices_idle P r vs before
    rw [Voices.playing_of_agreeOn kept, before] at after
    cases after
  · rfl

/-! ### The Tom's bend (rules R262, R390) -/

/-- The frequency after one bend. -/
def bendFreq (f : F32) : F32 := reference.clamp (reference.mul f (F32.lit 95 2)) (F32.lit 1 0) reference.freqMax

theorem tomBend_eq (d : Drum) : tomBend reference d = { d with bt := { d.bt with freq := bendFreq d.bt.freq } } :=
  tomBend_reference d

theorem tomBend_iterate (n : Nat) (d : Drum) :
    (tomBend reference)^[n] d = { d with bt := { d.bt with freq := bendFreq^[n] d.bt.freq } } := by
  induction n generalizing d with
  | zero => rfl
  | succ n ih => rw [Function.iterate_succ_apply, tomBend_eq, ih, Function.iterate_succ_apply]

theorem bendFreq_within {f : F32} (h : f.isFinite = true) : within (F32.lit 1 0) reference.freqMax (bendFreq f) := by
  refine clamp_within _ freqMin_le_freqMax ?_
  rw [reference_mul]
  exact (mul_finite h (by decide +kernel)).1

theorem bendFreq_finite {f : F32} (h : f.isFinite = true) : (bendFreq f).isFinite = true :=
  (isFrequency_of_within zero_le_freqMin (bendFreq_within h)).finite

/-- A higher frequency is bent to a higher one. -/
theorem bendFreq_mono {f g : F32} (hf : f.isFinite = true) (hg : g.isFinite = true) (h : f.key ≤ g.key) :
    (bendFreq f).key ≤ (bendFreq g).key := by
  have factor : (F32.lit 95 2).isFinite = true := by decide +kernel
  unfold bendFreq
  rw [reference_mul, reference_mul]
  exact clamp_mono freqMin_le_freqMax (mul_finite hf factor).1 (mul_finite hg factor).1
    (mul_mono_left factor hf hg (by decide +kernel) h)

theorem bendFreq_iterate_mono (n : Nat) {f g : F32} (hf : f.isFinite = true) (hg : g.isFinite = true)
    (h : f.key ≤ g.key) : (bendFreq^[n] f).key ≤ (bendFreq^[n] g).key := by
  induction n generalizing f g with
  | zero => exact h
  | succ n ih =>
    rw [Function.iterate_succ_apply, Function.iterate_succ_apply]
    exact ih (bendFreq_finite hf) (bendFreq_finite hg) (bendFreq_mono hf hg h)

theorem bendFreq_iterate_within (n : Nat) {f : F32} (hf : f.isFinite = true) :
    within (F32.lit 1 0) reference.freqMax (bendFreq^[n + 1] f) := by
  induction n generalizing f with
  | zero => exact bendFreq_within hf
  | succ n ih =>
    rw [Function.iterate_succ_apply]
    exact ih (bendFreq_finite hf)

/-- 104 bends take 200 Hz, the highest legal tuning, to FREQ_MIN. -/
theorem bendFreq_iterate_highest : bendFreq^[104] (F32.lit 200 0) = F32.lit 1 0 := by decide +kernel

theorem bendFreq_freqMin : bendFreq (F32.lit 1 0) = F32.lit 1 0 := by decide +kernel

/-- 104 bends or more take every legal tuning to FREQ_MIN. -/
theorem bendFreq_collapses {f : F32} (h : referenceCfg.tomTuning.holds f) {n : Nat} (hn : 104 ≤ n) :
    bendFreq^[n] f = F32.lit 1 0 := by
  have top : (F32.lit 200 0).isFinite = true := by decide +kernel
  have finite : f.isFinite = true := isFinite_of_le (by decide +kernel) top h.1 h.2
  have high := bendFreq_iterate_mono 104 finite top ((le_iff _ _).1 h.2).2.2
  have low := ((le_iff _ _).1 (bendFreq_iterate_within 103 finite).1).2.2
  rw [bendFreq_iterate_highest] at high
  have nonzero : (F32.lit 1 0).key ≠ 0 := by decide +kernel
  have collapsed : bendFreq^[104] f = F32.lit 1 0 := (eq_of_key_eq (low.antisymm high) nonzero).symm
  obtain ⟨m, rfl⟩ := Nat.exists_eq_add_of_le' hn
  rw [Function.iterate_add_apply, collapsed]
  exact Function.iterate_fixed bendFreq_freqMin m

/-- A Sounding Tom's tick bends its frequency once. -/
theorem runVoices_tom_freq (r : Word) {vs : Voices} (on : vs.tom.isPlaying = true) :
    (runVoices reference r vs).voices.tom.bt.freq = bendFreq vs.tom.bt.freq := by
  simp only [Tick.voices, runVoices]
  rw [tom_process reference _ on, tomBend_eq]
  simp only [Drum.after, Bt.next_freq]

/-- Settles O51. -/
theorem tomBendCollapses : Obligations.TomBendCollapses := by
  refine ⟨tomBend_reference, fun d n legal hn => ?_, fun s n legal hn inbox => ?_⟩
  · rw [tomBend_iterate, bendFreq_collapses legal hn]
  · obtain ⟨t, run, freq⟩ := Machine.run_samples
      (I := fun k vs => vs.playing .tom = true → vs.tom.bt.freq = bendFreq^[k] s.voices.tom.bt.freq)
      (fun k r vs ih on => by
        have before := playing_before on
        rw [runVoices_tom_freq r before, ih before, Function.iterate_succ_apply'])
      n 0 s inbox (fun _ => rfl)
    refine ⟨t, run, fun on => ?_⟩
    rw [freq on, Nat.zero_add, bendFreq_collapses legal hn]

/-! ### The end of an envelope -/

/-- The shape every controlling envelope has: 1 ms up, then down to 0 in at most `hi` ms. -/
def Env.endsWithin (hi : F32) (e : Env) : Prop :=
  e.attackMs = F32.lit 1 0 ∧ e.sustain = zero ∧ within (F32.lit 1 1) hi e.decayMs

/-- An envelope is done from the age `n` on, if the slowest one of its shape is done at `n`. -/
theorem Env.done_of_age {hi : F32} {e : Env} (shape : e.endsWithin hi) (hhi : hi.isFinite = true) {n : Word}
    (attacked : (F32.lit 1 0).key ≤ (reference.timeOf n).key)
    (slowest : (decayCurve (F32.lit 1 0) hi (reference.timeOf n)).key ≤ thresh.key) (age : n ≤ e.age) :
    e.done reference = true := by
  rcases active : e.isActive with _ | _
  · exact Env.done_inactive reference active
  obtain ⟨attack, sustain, decay⟩ := shape
  have fA : (F32.lit 1 0).isFinite = true := by decide
  have pA : 0 < (F32.lit 1 0).key := by decide +kernel
  obtain ⟨fn, -, topn⟩ := timeOf_range n
  obtain ⟨ft, -, topt⟩ := timeOf_range e.age
  have later := timeOf_mono age
  have time : e.time reference = reference.timeOf e.age := rfl
  have since := attacked.trans later
  have fD : e.decayMs.isFinite = true := isFinite_of_le (by decide +kernel) hhi decay.1 decay.2
  have low := ((le_iff _ _).1 decay.1).2.2
  have high := ((le_iff _ _).1 decay.2).2.2
  have slow : DecayTimes (F32.lit 1 0) hi (reference.timeOf n) := ⟨fA, pA.le, hhi, low.trans high, attacked, fn, topn⟩
  have own : DecayTimes (F32.lit 1 0) e.decayMs (reference.timeOf e.age) := ⟨fA, pA.le, fD, low, since, ft, topt⟩
  have past : lt (e.time reference) e.attackMs = false := by
    rw [attack, time]
    exact (lt_false_iff (isNaN_of_isFinite ft) (by decide)).2 since
  refine (Env.done_active active).2 ⟨?_, ?_⟩
  · rw [attack, time]
    exact (le_iff _ _).2 ⟨by decide, isNaN_of_isFinite ft, since⟩
  · rcases decaying : lt (e.time reference) (add e.attackMs e.decayMs) with _ | _
    · rw [Env.level_sustain active past decaying, sustain]; decide
    · rw [Env.level_decayCurve active sustain past decaying, attack, time]
      exact (le_iff _ _).2 ⟨own.curve_isNaN, by decide, (decayCurve_anti slow own later high).trans slowest⟩

/-- Every decay of at most 2000 ms is over at age 65504 (rule R391: the Cymbal at its longest decay needs it). -/
theorem Env.doneNext_at_65504 {e : Env} (shape : e.endsWithin (F32.lit 2000 0))
    (age : 65504 ≤ (satInc e.age).toNat) : e.doneNext reference = true :=
  Env.done_of_age (e := { e with age := satInc e.age }) (n := 65504) shape (by decide +kernel) (by decide +kernel)
    (by decide +kernel) age

/-- Every decay of at most 300 ms is over at age 10000, long before. -/
theorem Env.doneNext_at_10000 {e : Env} (shape : e.endsWithin (F32.lit 300 0))
    (age : 10000 ≤ (satInc e.age).toNat) : e.doneNext reference = true :=
  Env.done_of_age (e := { e with age := satInc e.age }) (n := 10000) shape (by decide +kernel) (by decide +kernel)
    (by decide +kernel) age

end Sys2Proof

/-!
A voice that is not triggered again goes Idle (rules R211, R391): the decays of the controlling envelopes are bounded,
their ages count the ticks, and the Clap's bursts end.
-/

namespace Sys2Proof

open F32

/-! ### The decays of the controlling envelopes -/

/-- A time at or above TIME_MIN_MS keeps its bounds when it is clamped (rule R165). -/
theorem clampTime_within {lo hi x : F32} (h : within lo hi x) (hlo : le (F32.lit 1 1) lo = true) :
    within (F32.lit 1 1) hi (reference.clampTime x) := by
  have above := le_trans hlo h.1
  obtain ⟨bound, num, least⟩ := (le_iff _ _).1 above
  have kept : reference.clampTime x = x := by
    have below : lt x (F32.lit 1 1) = false := (lt_false_iff num bound).2 least
    exact (reference_max x _).trans (if_neg (ne_true_of_eq_false below))
  rw [kept]
  exact ⟨above, h.2⟩

/-- The Snare's noise decay lies between 50 and 300 ms (rule R222). -/
theorem snapDecay_within {x : F32} (h : within zero one x) :
    within (F32.lit 50 0) (F32.lit 300 0) (reference.snapDecay x) := by
  have finite : x.isFinite = true := isFinite_of_le (by decide) (by decide) h.1 h.2
  have span : (sub (F32.lit 300 0) (F32.lit 50 0)).isFinite = true := by decide +kernel
  have low := mul_mono_left span (by decide) finite (by decide +kernel) ((le_iff _ _).1 h.1).2.2
  have high := mul_mono_left span finite (by decide) (by decide +kernel) ((le_iff _ _).1 h.2).2.2
  have product : (mul x (sub (F32.lit 300 0) (F32.lit 50 0))).isFinite = true :=
    isFinite_of_between (by decide +kernel) (by decide +kernel) low high
  have fifty : (F32.lit 50 0).isFinite = true := by decide +kernel
  have sum0 := add_mono fifty (by decide +kernel) fifty product le_rfl low
  have sum1 := add_mono fifty product fifty (by decide +kernel) le_rfl high
  have bottom : (F32.lit 50 0).key ≤ (add (F32.lit 50 0) (mul zero (sub (F32.lit 300 0) (F32.lit 50 0)))).key := by
    decide +kernel
  have top : (add (F32.lit 50 0) (mul one (sub (F32.lit 300 0) (F32.lit 50 0)))).key ≤ (F32.lit 300 0).key := by
    decide +kernel
  have num := (add_finite fifty product).1
  rw [snapDecay_reference, reference_sub, reference_mul, reference_add]
  exact ⟨(le_iff _ _).2 ⟨by decide +kernel, num, bottom.trans sum0⟩, (le_iff _ _).2 ⟨num, by decide +kernel, sum1.trans top⟩⟩

/-- What a tick leaves as it is and the decays of the controlling envelopes follow from. -/
structure Voices.Settled (vs : Voices) : Prop where
  registers : vs.registers.legal
  derived : vs.derived reference
  configured : vs.configured = Machine.State.reset.voices.configured

theorem Voices.Settled.tick {vs : Voices} (h : vs.Settled) (r : Word) : (runVoices reference r vs).voices.Settled where
  registers := by rw [runVoices_registers]; exact h.registers
  derived := derived_of_still_eq reference (runVoices_still reference r vs) h.derived
  configured := by rw [runVoices_configured]; exact h.configured

/-- The configured shapes and decays of the reference block. -/
theorem reset_shapes : ∀ s ∈ Machine.State.reset.voices.configured.shapes, s = (F32.lit 1 0, F32.lit 1 1, zero) := by
  decide +kernel

theorem reset_decays : ∀ d ∈ Machine.State.reset.voices.configured.decays,
    within (F32.lit 1 1) (F32.lit 300 0) d := by
  decide +kernel

theorem shapes_eq (vs : Voices) : vs.configured.shapes = (Voice.all.flatMap vs.envs).map Env.shape := rfl

theorem shape_mem {vs : Voices} {v : Voice} {e : Env} (h : e ∈ vs.envs v) : e.shape ∈ vs.configured.shapes := by
  rw [shapes_eq]
  exact List.mem_map_of_mem (List.mem_flatMap.2 ⟨v, v.mem_all, h⟩)

theorem controlling_subset {vs : Voices} {v : Voice} {e : Env} (h : e ∈ vs.controlling v) : e ∈ vs.envs v := by
  cases v with
  | kick => exact List.mem_cons.2 (.inl (List.mem_singleton.1 h))
  | snare | cymbal | hihat | tom | conga | rimshot | maracas | clap | cowbell => exact h

section Settled

variable {vs : Voices} (h : vs.Settled)

include h

theorem Voices.Settled.shape {v : Voice} {e : Env} (mem : e ∈ vs.envs v) :
    e.attackMs = F32.lit 1 0 ∧ e.sustain = zero := by
  have shape := reset_shapes e.shape (h.configured ▸ shape_mem mem)
  simp only [Env.shape, Prod.mk.injEq] at shape
  exact ⟨shape.1, shape.2.2⟩

theorem Voices.Settled.decay {d : F32} (mem : d ∈ vs.configured.decays) : within (F32.lit 1 1) (F32.lit 300 0) d :=
  reset_decays d (h.configured ▸ mem)

/-- A controlling envelope's decay is a configured one, or a register bounds it. -/
theorem Voices.Settled.controlling_decay {v : Voice} {e : Env} (mem : e ∈ vs.controlling v) :
    within (F32.lit 1 1) (F32.lit 2000 0) e.decayMs := by
  have wider {hi d : F32} (bound : le hi (F32.lit 2000 0) = true) (inside : within (F32.lit 1 1) hi d) :
      within (F32.lit 1 1) (F32.lit 2000 0) d := ⟨inside.1, le_trans inside.2 bound⟩
  have config {d : F32} (mem : d ∈ vs.configured.decays) : within (F32.lit 1 1) (F32.lit 2000 0) d :=
    wider (by decide +kernel) (h.decay mem)
  obtain ⟨⟨-, -, -, kick, -⟩, ⟨-, -, -, -, snap⟩, ⟨-, -, -, -, cymbal, -⟩, ⟨-, -, -, hihat⟩, -⟩ := h.derived
  obtain ⟨kickDecay, -, -, snappy, cymbalDecay, -⟩ := h.registers
  cases v <;> simp only [Voices.controlling, Voices.envs, List.mem_cons, List.not_mem_nil, or_false] at mem
  case kick =>
    rw [mem, kick]
    exact wider (by decide +kernel) (clampTime_within kickDecay (by decide +kernel))
  case snare =>
    obtain rfl | rfl := mem
    · exact config (by simp [Voices.configured])
    · rw [snap]
      exact wider (by decide +kernel) (clampTime_within (snapDecay_within snappy) (by decide +kernel))
  case cymbal =>
    rw [mem, cymbal]
    exact clampTime_within cymbalDecay (by decide +kernel)
  case hihat =>
    rw [mem, hihat, clampTime_hihatDecay]
    split <;> decide +kernel
  case tom | conga | clap => obtain rfl | rfl := mem <;> exact config (by simp [Voices.configured])
  case rimshot | maracas | cowbell => exact mem ▸ config (by simp [Voices.configured])

theorem Voices.Settled.controlling_endsWithin {v : Voice} {e : Env} (mem : e ∈ vs.controlling v) :
    e.endsWithin (F32.lit 2000 0) :=
  have shape := h.shape (controlling_subset mem)
  ⟨shape.1, shape.2, h.controlling_decay mem⟩

end Settled

/-! ### The ages count the ticks -/

theorem le_satInc {k : Nat} {a : Word} (hk : k < 65504) (h : k ≤ a.toNat) : k + 1 ≤ (satInc a).toNat := by
  rw [toNat_satInc]
  have := a.isLt
  omega

/-- A voice that is not triggered again, and is not the Clap, sounds for less than 65504 ticks. -/
theorem runVoices_ages {vs : Voices} (h : vs.Settled) {k : Nat} {v : Voice} (other : v ≠ .clap)
    (ih : vs.playing v = true → k < 65504 ∧ ∀ e ∈ vs.envs v, k ≤ e.age.toNat) (r : Word)
    (on : (runVoices reference r vs).voices.playing v = true) :
    k + 1 < 65504 ∧ ∀ e ∈ (runVoices reference r vs).voices.envs v, k + 1 ≤ e.age.toNat := by
  have before := playing_before on
  obtain ⟨early, ages⟩ := ih before
  obtain ⟨envs, playing⟩ := runVoices_sounding reference r before other
  rw [envs]
  refine ⟨?_, ?_⟩
  · by_contra late
    have done : (vs.controlling v).all (Env.doneNext reference) = true := by
      rw [List.all_eq_true]
      intro e mem
      have next := le_satInc early (ages e (controlling_subset mem))
      exact Env.doneNext_at_65504 (h.controlling_endsWithin mem) (by omega)
    rw [on, done] at playing
    cases playing
  · simp only [List.mem_map, forall_exists_index, and_imp, forall_apply_eq_imp_iff₂]
    exact fun e mem => le_satInc early (ages e mem)

/-! ### The Clap's bursts -/

/-- How far `k` ticks have brought a Sounding Clap: the reverb tail is `k` ticks old; each burst left waits at most 492
ticks, so the saw envelope of the last burst is at most 986 ticks behind. -/
def Clap.progress (k : Nat) (p : Clap) : Prop :=
  p.burstsLeft ≤ 2 ∧ k ≤ p.revEnv.age.toNat
    ∧ (0 < p.burstsLeft → k ≤ 493 * (2 - p.burstsLeft) + min p.burstAge.toNat 492)
    ∧ (p.burstsLeft = 0 → k ≤ 986 + p.sawEnv.age.toNat)

/-- From age 492 on (15 ms) a burst that is left is due (rule R291). -/
theorem burstDue_of_age {p : Clap} (left : 0 < p.burstsLeft) (age : 492 ≤ p.burstAge.toNat) :
    p.burstDue reference = true := by
  have spacing : (F32.lit 15 0).key ≤ (reference.timeOf 492).key := by decide +kernel
  have later : (reference.timeOf 492).key ≤ (reference.timeOf p.burstAge).key := timeOf_mono (a := 492) age
  rw [Clap.burstDue_iff]
  refine ⟨left, (le_iff _ _).2 ⟨by decide +kernel, ?_, spacing.trans later⟩⟩
  exact isNaN_of_isFinite (timeOf_range p.burstAge).1

/-- A tick brings a Sounding Clap one tick further, a due burst or none. -/
theorem Clap.progress_burst {k : Nat} {p : Clap} (h : p.progress k) (hk : k < 65504) :
    let c := p.burst reference
    c.burstsLeft ≤ 2 ∧ k + 1 ≤ (satInc c.revEnv.age).toNat
      ∧ (0 < c.burstsLeft → k + 1 ≤ 493 * (2 - c.burstsLeft) + min (satInc c.burstAge).toNat 492)
      ∧ (c.burstsLeft = 0 → k + 1 ≤ 986 + (satInc c.sawEnv.age).toNat) := by
  obtain ⟨most, rev, waiting, last⟩ := h
  have rev' := le_satInc hk rev
  rcases due : p.burstDue reference with _ | _
  · rw [clap_burst_not_due due]
    refine ⟨most, rev', fun left => ?_, fun none => ?_⟩
    · have young : p.burstAge.toNat < 492 := by
        by_contra old
        rw [burstDue_of_age left (by omega)] at due
        cases due
      have := waiting left
      rw [toNat_satInc]
      omega
    · have := last none
      rw [toNat_satInc]
      have := p.sawEnv.age.isLt
      omega
  · have left : 0 < p.burstsLeft := ((Clap.burstDue_iff p).1 due).1
    have := waiting left
    have young : (satInc 0#32).toNat = 1 := by decide
    rw [clap_burst_due due]
    refine ⟨by dsimp only; omega, rev', fun more => ?_, fun none => ?_⟩
    · dsimp only at more ⊢
      rw [young]
      omega
    · dsimp only [Env.trigger] at none ⊢
      rw [young]
      omega

/-- The Clap's two envelopes are done long before 65504 ticks. -/
theorem Voices.Settled.clap_endsWithin {vs : Voices} (h : vs.Settled) :
    vs.clap.sawEnv.endsWithin (F32.lit 300 0) ∧ vs.clap.revEnv.endsWithin (F32.lit 300 0) := by
  have saw := h.shape (v := .clap) (e := vs.clap.sawEnv) (by simp [Voices.envs])
  have rev := h.shape (v := .clap) (e := vs.clap.revEnv) (by simp [Voices.envs])
  exact ⟨⟨saw.1, saw.2, h.decay (by simp [Voices.configured])⟩, rev.1, rev.2, h.decay (by simp [Voices.configured])⟩

/-- A burst leaves the shape of the saw envelope. -/
theorem Clap.burst_sawEnv_endsWithin {hi : F32} {p : Clap} (P : Params) (h : p.sawEnv.endsWithin hi) :
    (p.burst P).sawEnv.endsWithin hi := by
  unfold Clap.burst
  split <;> exact h

/-- A Clap that is not triggered again sounds for less than 65504 ticks. -/
theorem runVoices_clap_progress {vs : Voices} (h : vs.Settled) {k : Nat}
    (ih : vs.clap.isPlaying = true → k < 65504 ∧ vs.clap.progress k) (r : Word)
    (on : (runVoices reference r vs).voices.clap.isPlaying = true) :
    k + 1 < 65504 ∧ (runVoices reference r vs).voices.clap.progress (k + 1) := by
  have before : vs.clap.isPlaying = true := playing_before (v := .clap) on
  obtain ⟨early, progress⟩ := ih before
  obtain ⟨saw, rev, left, age, playing⟩ := runVoices_clap reference r before
  obtain ⟨most, rev', waiting, last⟩ := Clap.progress_burst progress early
  unfold Clap.progress
  rw [saw, rev, left, age]
  refine ⟨?_, most, rev', waiting, last⟩
  by_contra late
  have none : (vs.clap.burst reference).burstsLeft = 0 := by
    by_contra some
    have := waiting (by omega)
    omega
  have behind := last none
  obtain ⟨saw_shape, rev_shape⟩ := h.clap_endsWithin
  have saw_done : (vs.clap.burst reference).sawEnv.doneNext reference = true :=
    Env.doneNext_at_10000 (Clap.burst_sawEnv_endsWithin reference saw_shape) (by omega)
  have rev_done : (vs.clap.burst reference).revEnv.doneNext reference = true := by
    rw [Clap.burst_revEnv] at rev' ⊢
    exact Env.doneNext_at_10000 rev_shape (by omega)
  rw [on, saw_done, rev_done, none] at playing
  cases playing

/-! ### Every voice falls silent -/

/-- What holds of the voices `k` ticks after the last other command. -/
structure Voices.Fading (k : Nat) (vs : Voices) : Prop where
  settled : vs.Settled
  ages : ∀ v, v ≠ .clap → vs.playing v = true → k < 65504 ∧ ∀ e ∈ vs.envs v, k ≤ e.age.toNat
  clap : vs.clap.isPlaying = true → k < 65504 ∧ vs.clap.progress k

theorem Voices.Fading.tick {k : Nat} {vs : Voices} (h : vs.Fading k) (r : Word) :
    (runVoices reference r vs).voices.Fading (k + 1) where
  settled := h.settled.tick r
  ages _ other := runVoices_ages h.settled other (h.ages _ other) r
  clap := runVoices_clap_progress h.settled h.clap r

/-- At the last other command nothing is known of the ages, and at most two bursts are left. -/
theorem Voices.Settled.fading {vs : Voices} (h : vs.Settled) (bursts : vs.clap.burstsLeft ≤ 2) : vs.Fading 0 where
  settled := h
  ages _ _ _ := ⟨by decide, fun _ _ => Nat.zero_le _⟩
  clap _ := ⟨by decide, bursts, Nat.zero_le _, fun _ => Nat.zero_le _, fun _ => Nat.zero_le _⟩

/-- After 65504 ticks every voice is Idle. -/
theorem Voices.Fading.silent {k : Nat} {vs : Voices} (h : vs.Fading k) (late : 65504 ≤ k) (v : Voice) :
    vs.playing v = false := by
  rw [← Bool.not_eq_true]
  intro on
  by_cases clap : v = .clap
  · subst clap
    exact absurd (h.clap on).1 (by omega)
  · exact absurd (h.ages v clap on).1 (by omega)

/-- Settles O34: 65504 ticks carry the ages past every decay, and the Clap past its bursts. -/
theorem everyVoiceFallsSilent : Obligations.EveryVoiceFallsSilent := by
  intro s n legal derived flags configured late inbox
  have settled : s.voices.Settled := ⟨legal.1.1, derived, configured⟩
  have bursts : s.voices.clap.burstsLeft ≤ 2 := ((flagsAgree_iff s.voices).1 flags).2.1
  obtain ⟨t, run, fading⟩ :=
    Machine.run_samples (I := Voices.Fading) (fun _ r _ h => h.tick r) n 0 s inbox (settled.fading bursts)
  exact ⟨t, run, fading.silent (by omega)⟩

end Sys2Proof
